-- ==== Sys2Proof/Word.lean ====
section
/-! DEFINITION. The word types of the Aretil 440's buses, links and time base, and rounding up. -/

namespace Sys2Proof

/-- A 32-bit bus word, address or data (R1). -/
abbrev Word := BitVec 32

/-- One byte of a supervisory frame (section 12.3). -/
abbrev Byte := BitVec 8

/-- A value of the millisecond time base, which wraps (00_scope.md section 5). -/
abbrev Time := BitVec 32

/-- The quotient rounded up, on natural numbers (00_scope.md section 5). -/
def ceilDiv (a b : Nat) : Nat := (a + b - 1) / b

end Sys2Proof
end

