-- ==== Sys2Proof/Syntax.lean ====
section
/-! DEFINITION. The commands of the block: one constructor of `Instr` per row of spec/opcode_table.json, with the
operands each row's rule gives it, and the data those operands are made of (bus transactions, frames). -/

namespace Sys2Proof

/-- A direction of a line degree: IN arrives from the fibre, OUT leaves to it (00_scope.md section 5). -/
inductive Dir where
  | inward
  | outward
deriving DecidableEq, Repr, Inhabited

/-- A job key: head node ID, job number, generation (R64). -/
structure JobKey where
  node : BitVec 16
  job : BitVec 3
  gen : BitVec 4
deriving DecidableEq, Repr, Inhabited

/-- An entry of a path list, its degrees as the frame's bytes carry them (R62, section 12.3). -/
structure PathEntry where
  node : BitVec 16
  ingress : Byte
  egress : Byte
deriving DecidableEq, Repr, Inhabited

/-- A hop record as a frame carries it (R81, section 12.3): deviation result in bits 1:0 of `results`,
continuity result in bits 6:4. -/
structure HopRecord where
  hop : Byte
  node : BitVec 16
  results : Byte
  dev : BitVec 16
  budget : BitVec 16
  limit : BitVec 16
  count : Byte
  tnext : BitVec 16
deriving DecidableEq, Repr, Inhabited

/-- What a CLAIM carries of its own (R80). -/
structure ClaimBody where
  slot : Byte
  pilot : BitVec 16
  target : BitVec 16
  start : BitVec 16
  visibility : BitVec 16
  path : List PathEntry
  display : List HopRecord
deriving DecidableEq, Repr, Inhabited

/-- The fourteen path frame kinds, each with the fields of its own (R80). -/
inductive FrameBody where
  | claim (c : ClaimBody)
  | confirm (display : List HopRecord)
  | refuse (cause hop : Byte)
  | intent (att target : BitVec 16)
  | ready
  | busy (hop : Byte)
  | measure (att target : BitVec 16)
  | report (display : List HopRecord)
  | stepEnd (decision : Byte)
  | commit
  | committed
  | abort (cause : Byte)
  | alarm (cause hop : Byte)
  | keep
deriving DecidableEq, Repr, Inhabited

/-- A path frame: its key, its step number and its kind's fields (R80). -/
structure PathFrame where
  key : JobKey
  step : Byte
  body : FrameBody
deriving DecidableEq, Repr, Inhabited

/-- A supervisory frame: the link's own ALIVE, or a path frame (R164, R167). -/
inductive Frame where
  | alive (flags : Byte)
  | path (f : PathFrame)
deriving DecidableEq, Repr, Inhabited

/-- One beat of a write burst: its data and its four byte enables (R1). -/
structure WriteBeat where
  data : Word
  enables : BitVec 4
deriving DecidableEq, Repr, Inhabited

/-- The direction and the beats of a transaction (R1). -/
inductive Burst where
  | read (beats : Nat)
  | write (beats : List WriteBeat)
deriving DecidableEq, Repr, Inhabited

/-- An upstream transaction (R1). -/
structure UpTxn where
  addr : Word
  master : BitVec 4
  burst : Burst
deriving DecidableEq, Repr, Inhabited

/-- The number of beats of a burst. -/
def Burst.length : Burst → Nat
  | .read n => n
  | .write bs => bs.length

/-- The commands of the block, one per row of spec/opcode_table.json in the table's order. A memory answer carries
`none` for ERROR and the words for OK, or a Bool that is true for OK. A link, a degree, an egress, a slot, a
Participation Table index and a job number are plain numbers whose range `Instr.wellFormed` checks. -/
inductive Instr where
  | upstreamTransaction (t : UpTxn)
  | forwardedWriteGrant
  | checkReadAnswer (answer : Option (List Word))
  | forwardedReadGrant
  | forwardedTransactionComplete (ok : Bool) (data : List Word)
  | partAccessGrant
  | readHoldExpiry (record : Nat)
  | powerOnReset
  | resetnAsserted
  | resetEnd (straps : BitVec 4)
  | producerWordReadAnswer (answer : Option Word)
  | adoptionCellReadAnswer (answer : Option Word)
  | adoptionSettleDeadline (egress slot : Nat)
  | entryExpired (degree : Nat) (dir : Dir) (slot : Nat)
  | measurementDeadline (entry : Nat)
  | driftWatchExpiry (degree : Nat)
  | intakeCellReadAnswer (answer : Option Word)
  | intakeSettleDeadline (degree slot : Nat)
  | orderLowerReadAnswer (answer : Option (List Word))
  | orderUpperReadError
  | badKind (upper : List Word)
  | turnUp (upper : List Word)
  | suspend (upper : List Word)
  | resume (upper : List Word)
  | abort (upper : List Word)
  | release (upper : List Word)
  | clearWatch (upper : List Word)
  | loadProfile (upper : List Word)
  | loadTable (upper : List Word)
  | setNode (upper : List Word)
  | badFrame (link : Nat) (bytes : List Byte)
  | alive (link : Nat) (flags : Byte)
  | claim (link : Nat) (key : JobKey) (step : Byte) (body : ClaimBody)
  | confirm (link : Nat) (key : JobKey) (step : Byte) (display : List HopRecord)
  | refuse (link : Nat) (key : JobKey) (step cause hop : Byte)
  | intent (link : Nat) (key : JobKey) (step : Byte) (att target : BitVec 16)
  | ready (link : Nat) (key : JobKey) (step : Byte)
  | busy (link : Nat) (key : JobKey) (step hop : Byte)
  | measure (link : Nat) (key : JobKey) (step : Byte) (att target : BitVec 16)
  | report (link : Nat) (key : JobKey) (step : Byte) (display : List HopRecord)
  | stepEnd (link : Nat) (key : JobKey) (step decision : Byte)
  | commit (link : Nat) (key : JobKey) (step : Byte)
  | committed (link : Nat) (key : JobKey) (step : Byte)
  | abortFrame (link : Nat) (key : JobKey) (step cause : Byte)
  | alarm (link : Nat) (key : JobKey) (step cause hop : Byte)
  | keep (link : Nat) (key : JobKey) (step : Byte)
  | livenessExpiry (link : Nat)
  | aliveTimerExpiry (link : Nat)
  | freshPeriodEnd
  | frameSent (link : Nat)
  | orphanTimerExpiry (entry : Nat)
  | keepTimerExpiry (job : Nat)
  | commitReturnExpiry
  | gateHoldLimitExpiry (degree : Nat) (dir : Dir)
  | confirmWindowExpiry (job : Nat)
  | readyBusyWindowExpiry (job : Nat)
  | reportWindowExpiry (job : Nat)
  | committedWindowExpiry (job : Nat)
  | settleTimerExpiry (job : Nat)
  | retryDelayEnd (job : Nat)
  | remeasureWaitEnd (job : Nat)
  | unwindTimerExpiry (job : Nat)
  | blockWriteAnswer (ok : Bool)
  | stepWriteAnswer (ok : Bool)
  | routeWriteAnswer (ok : Bool)
  | commitWriteAnswer (ok : Bool)
  | restoreWriteAnswer (ok : Bool)
  | reportRecordWriteAnswer (ok : Bool)
  | reportHeaderWriteAnswer (ok : Bool)
  | statusWriteAnswer (ok : Bool)
deriving DecidableEq, Repr, Inhabited

end Sys2Proof
end

