-- ==== Sys2Proof/Config.lean ====
section
/-! DEFINITION. What the part fixes: the sizes of its tables; and the one value that the spec leaves to the moment at which
something outside the model happens (log entries 1 and 27). -/

namespace Sys2Proof.Config

/-- Slots of a degree, 0..95 (00_scope.md section 5). -/
def slots : Nat := 96

/-- Grid entries: egress L and 1..4 by 96 slots (R40). -/
def gridEntries : Nat := 480

/-- Snapshot entries: 4 degrees by 2 directions by 96 slots (R25). -/
def snapEntries : Nat := 768

/-- Line degrees 1..4. -/
def degrees : Nat := 4

/-- Participation Table entries (R76). -/
def entries : Nat := 32

/-- Job numbers 0..7 (R64). -/
def jobs : Nat := 8

/-- Step gates, degree by direction (R102). -/
def gates : Nat := 8

/-- Status records: the node's, then jobs 0..7 (R179). -/
def statusRecords : Nat := 9

/-- Records that may carry a read hold: the nine status records and the report header (R17). -/
def holdRecords : Nat := 10

/-- Stored profiles (R67). -/
def profiles : Nat := 4

/-- How many beats of the write transaction in progress have been issued downstream when a reset begins (R23): a free value,
one for each number of transactions answered before. Log entry 27. -/
opaque issuedBeats : Nat → Nat

end Sys2Proof.Config
end

