-- ==== Sys2Proof/Machine/Table.lean ====
section
/-! DEFINITION. A table of a fixed number of like things, indexed by a plain number: its size is part of its type, so a
state never holds a grid of another size. -/

namespace Sys2Proof

/-- `n` things in a row. -/
structure Table (n : Nat) (α : Type) where
  cells : List α
  size_eq : cells.length = n
deriving DecidableEq, Repr

/-- The table whose every place holds `a`. -/
def Table.fill {α : Type} (n : Nat) (a : α) : Table n α := ⟨List.replicate n a, List.length_replicate⟩

/-- What place `i` holds; outside the table, `α`'s default. -/
def Table.get {n : Nat} {α : Type} [Inhabited α] (t : Table n α) (i : Nat) : α := t.cells.getD i default

/-- The table with `a` at place `i`; unchanged where there is no such place. -/
def Table.set {n : Nat} {α : Type} (t : Table n α) (i : Nat) (a : α) : Table n α :=
  ⟨t.cells.set i a, by rw [List.length_set]; exact t.size_eq⟩

/-- Every place changed by `f`, which sees its index. -/
def Table.mapIdx {n : Nat} {α : Type} (t : Table n α) (f : Nat → α → α) : Table n α :=
  ⟨List.zipWith f (List.range n) t.cells, by simp [t.size_eq]⟩

end Sys2Proof
end

