-- ==== Sys2Proof/Machine/State.lean ====
section
/-! DEFINITION. The state of the Aretil 440, block by block as 00_scope.md section 3 names the blocks, and the state right
after a power-on reset. Plain data throughout. -/

namespace Sys2Proof.Machine

/-! ## Time -/

/-- A length of time counted from a starting event, as every timer, window, deadline and expiry of the manual is
(00_scope.md section 5). -/
structure Timer where
  start : Time
  length : Nat
deriving DecidableEq, Repr, Inhabited

/-- The device's clock: the 1 ms time base, and the microseconds since its last count, which the read hold alone is
measured in (00_scope.md section 5, R17). -/
structure Clock where
  ms : Time
  us : Nat
deriving DecidableEq, Repr, Inhabited

/-- What the device is doing: held in reset, adopting, or running (R182, R23). -/
inductive Mode where
  | inReset
  | adopting
  | running
deriving DecidableEq, Repr, Inhabited

/-- The kind of a reset: power-on, or RESETN (00_scope.md section 7). -/
inductive ResetKind where
  | powerOn
  | resetn
deriving DecidableEq, Repr, Inhabited

/-! ## Values -/

/-- An attenuation: a number of hdB, or BLOCK, which compares above every number (00_scope.md section 5). -/
inductive Atten where
  | hdb (n : Nat)
  | block
deriving DecidableEq, Repr, Inhabited

/-- Every cause and reason of section 12.2's cause table, in its order. -/
inductive Cause where
  | none
  | loss | overload | excursion | misroute | noLight | display | pathSilent | pathLost | remoteAlarm | gateExpired
  | setpointFault | ordered | budget | monitor | noRoom | congested | stepLimit | floor
  | pathMismatch | notReady | pathTail | pathForm | degree | noEntry | duplicate | slotBusy | ingressLit | drifting | link
  | pathLength | pathHead | loop | slot | nodeUnset | readError | badKind | notQuarantined | busy | nodeId | noJob
  | badState | owned | reroute | orphan | adoptDark | clamped
deriving DecidableEq, Repr, Inhabited

/-! ## Monitor Snapshot Unit (MSU) -/

/-- The class of a snapshot entry (R25). -/
inductive LevelClass where
  | dark
  | finite
  | over
  | stale
deriving DecidableEq, Repr, Inhabited

/-- The sweep tag of a snapshot entry (R25). -/
inductive SweepTag where
  | absent
  | pending
  | number (n : BitVec 16)
deriving DecidableEq, Repr, Inhabited

/-- A snapshot entry (R25): the level is in hdBm and present only when the class is FINITE. -/
structure SnapEntry where
  cls : LevelClass
  level : Option Int
  pilot : Nat
  snoop : Option Time
  expired : Bool
  tag : SweepTag
deriving DecidableEq, Repr, Inhabited

/-- A snapshot entry after either reset (R25). -/
def SnapEntry.afterReset : SnapEntry := ⟨.stale, none, 0, none, false, .absent⟩

/-- The snapshot, and the last complete sweep of each degree (R25). -/
structure Msu where
  entries : Table Config.snapEntries SnapEntry
  sweeps : Table Config.degrees (Option (BitVec 16))
deriving DecidableEq, Repr

/-- A deviation result (R36), in the order of its codes (log entry 28). -/
inductive DevResult where
  | ok
  | loss
  | overload
  | unmeasured
deriving DecidableEq, Repr, Inhabited

/-- A continuity result (R38), in the order of its codes (log entry 28). -/
inductive ContResult where
  | lit
  | notYet
  | noLight
  | misroute
  | unmeasured
deriving DecidableEq, Repr, Inhabited

/-- A computed deviation part: its result, D, and the sweep that computed it (R36, R38). -/
structure DevPart where
  result : DevResult
  dev : Nat
  sweep : Option (BitVec 16)
deriving DecidableEq, Repr, Inhabited

/-- A computed continuity part (R37, R38). -/
structure ContPart where
  result : ContResult
  sweep : Option (BitVec 16)
deriving DecidableEq, Repr, Inhabited

/-- A pending measurement (R32): what was asked, the marks, the deadline, and each part once computed. Its reference set
is the participation's. -/
structure Measurement where
  devDegree : Nat
  devDir : Dir
  contDegree : Nat
  contDir : Dir
  slot : Nat
  pilot : Nat
  att : Atten
  visibility : Nat
  devMark : Option (BitVec 16)
  contMark : Option (BitVec 16)
  deadline : Timer
  dev : Option DevPart
  cont : Option ContPart
deriving DecidableEq, Repr, Inhabited

/-! ## Channel Grid (CG) -/

/-- The state of a grid entry (R40), in the order of its codes. -/
inductive GridState where
  | free
  | reserved
  | ramping
  | inService
  | quarantined
deriving DecidableEq, Repr, Inhabited

/-- A grid entry (R40): an unknown commit level is `none`. -/
structure GridEntry where
  state : GridState
  owner : Option Nat
  commitLevel : Option Int
  drift : Bool
  loss : Bool
deriving DecidableEq, Repr, Inhabited

/-- What a waiting cell waits for: a header of its watch's degree, or the deadline (R182, R183); and the word as read,
which ADOPT_DARK shows (R184). -/
structure CellWatch where
  degree : Nat
  dir : Dir
  deadline : Timer
  word : Word
deriving DecidableEq, Repr, Inhabited

/-- The settlement of a cell in adoption or in its degree's intake (R182, R55). -/
inductive Settlement where
  | settled
  | unread
  | waiting (w : CellWatch)
deriving DecidableEq, Repr, Inhabited

/-- The grid, the settlements, the watch timers and the intakes (R40, R49, R55, R182). -/
structure GridBlock where
  entries : Table Config.gridEntries GridEntry
  settlements : Table Config.gridEntries Settlement
  watches : Table Config.degrees (Option Timer)
  intakes : Table Config.degrees Bool
deriving DecidableEq, Repr

/-! ## Order Reader (OR) and the configuration it owns -/

/-- A profile (R67); the settle time is in ms. -/
structure Profile where
  minStep : Nat
  maxStep : Nat
  leadIn : Nat
  settle : Nat
  start : Nat
  visibility : Nat
deriving DecidableEq, Repr, Inhabited

/-- The settings of one line degree (R71); the drift interval is in ms. -/
structure DegreeSettings where
  budget : Nat
  limit : Nat
  driftLimit : Nat
  driftInterval : Nat
  floor : Nat
  express : Nat
deriving DecidableEq, Repr, Inhabited

/-- The node settings (R71): bit d - 1 of the mask is degree d. -/
structure NodeSettings where
  nodeId : BitVec 16
  equipped : BitVec 4
  perDegree : Table Config.degrees DegreeSettings
  drop : Nat
  period : Nat
  scanner : BitVec 4
  attnEnable : Bool
deriving DecidableEq, Repr

/-- The node controller's configuration, which RESETN retains (R64, R67, R69, R71): the sensitivity table is indexed by
count class × 8 + depth class. -/
structure Settings where
  node : NodeSettings
  profiles : Table Config.profiles Profile
  sensitivity : Table 32 Nat
  nextGen : Table Config.jobs (BitVec 4)
deriving DecidableEq, Repr

/-- The reader state of OR (R57); READING is split by which half is in flight (R59). -/
inductive Reader where
  | waiting
  | idle
  | readingLower
  | readingUpper (lower : List Word)
deriving DecidableEq, Repr, Inhabited

/-- OR's ring position (R57). -/
structure OrderReader where
  consumer : Nat
  target : Nat
  remembered : Option Nat
  reader : Reader
deriving DecidableEq, Repr, Inhabited

/-! ## Path Agent (PA) -/

/-- The role of a participation (R77), in the order of its codes. -/
inductive Role where
  | head
  | transit
  | tail
  | localRole
deriving DecidableEq, Repr, Inhabited

/-- The cycle a transit or tail serves: the last MEASURE's step number, head attenuation and target (R112). -/
structure Cycle where
  step : Byte
  att : Atten
  target : Nat
deriving DecidableEq, Repr, Inhabited

/-- An element of a reference set: a slot and its level (R31). -/
structure RefChannel where
  slot : Nat
  level : Int
deriving DecidableEq, Repr, Inhabited

/-- A live Participation Table entry (R77). `opened` is the state OPEN, `closing` the flag of R79, `orphaned` that an
orphan expiry decides its grid outcome (R46), `ownRecord` and `heldReport` what R114 holds for pairing, `intents` the
step numbers of the INTENTs taken since the last STEP_END (R122). -/
structure Participation where
  key : JobKey
  role : Role
  slot : Nat
  ingress : Nat
  egress : Nat
  hop : Nat
  path : List PathEntry
  pilot : Nat
  target : Nat
  start : Nat
  visibility : Nat
  opened : Bool
  closing : Bool
  orphaned : Bool
  budget : Nat
  limit : Nat
  refs : List RefChannel
  row : List Nat
  routeAtt : Option Nat
  orphanFrom : Option Time
  measurement : Option Measurement
  cycle : Option Cycle
  ownRecord : Option HopRecord
  heldReport : Option (List HopRecord)
  intents : List Byte
deriving DecidableEq, Repr, Inhabited

/-- A commit return record (R91). -/
structure CommitReturn where
  key : JobKey
  ingress : Nat
  egress : Nat
  created : Time
deriving DecidableEq, Repr, Inhabited

/-- The Participation Table and the commit return list, oldest record first (R76, R91). -/
structure PathAgent where
  entries : Table Config.entries (Option Participation)
  returns : List CommitReturn
deriving DecidableEq, Repr

/-! ## Step Gates (SG) -/

/-- A held gate (R102): its holder, the start of its hold limit, and what its last taking recorded. -/
structure GateHold where
  holder : Nat
  key : JobKey
  since : Time
  step : Nat
  att : Atten
deriving DecidableEq, Repr, Inhabited

/-! ## Ramp Controller (RC) -/

/-- The kind of a job (R139), in the order of its codes. -/
inductive JobKind where
  | path
  | light
  | raise
deriving DecidableEq, Repr, Inhabited

/-- The phase of a job (R139), in the order of its codes. -/
inductive Phase where
  | claiming
  | gating
  | settling
  | measuring
  | waiting
  | suspended
  | unwinding
  | committing
deriving DecidableEq, Repr, Inhabited

/-- What a job's one running timer or reply window times (R118, R140). -/
inductive JobTimerKind where
  | confirmWindow
  | readyBusyWindow
  | reportWindow
  | committedWindow
  | settle
  | retry
  | wait
  | unwind
deriving DecidableEq, Repr, Inhabited

/-- A job's running timer or window. -/
structure JobTimer where
  kind : JobTimerKind
  timer : Timer
deriving DecidableEq, Repr, Inhabited

/-- An element of the per-hop array (R124). -/
structure HopElem where
  hop : Nat
  node : BitVec 16
  budget : Nat
  limit : Nat
  count : Nat
  dev : Nat
  devResult : DevResult
  contResult : ContResult
  tnext : Nat
  factor : Nat
  used : Option Nat
deriving DecidableEq, Repr, Inhabited

/-- The outcome of a plan (R131). -/
inductive PlanOutcome where
  | step
  | commitTest
  | noRoom
deriving DecidableEq, Repr, Inhabited

/-- A plan (R125, R131): its outcome, the planned step, the cap, and the effective sensitivity of each hop (R132). -/
structure Plan where
  outcome : PlanOutcome
  delta : Nat
  cap : Nat
  sens : List Nat
deriving DecidableEq, Repr, Inhabited

/-- How a job ended (R159, word 8 of the job status record), in the order of its codes after "live". -/
inductive JobOutcome where
  | committed
  | commitUnconfirmed
  | commitFault
  | refused
  | abortedEmergency
  | abortedGraceful
deriving DecidableEq, Repr, Inhabited

/-- A job record (R139). `entry` is its participation while it has one (R76). `cycleMeasuresStep` says that the next
decision event is the first after a planned step (R133). `lastPilot` is the pilot of the job's last write, or 0 (R142).
`emergency` is the manner of the abort taken (R149). The rollback stack has its top first. -/
structure Job where
  key : JobKey
  tag : Word
  kind : JobKind
  phase : Phase
  closing : Bool
  suspendPending : Bool
  lateAbort : Bool
  profile : Profile
  pilot : Nat
  egress : Nat
  slot : Nat
  source : Nat
  att : Atten
  target : Nat
  startAtt : Option Nat
  intercepted : Option Nat
  path : List PathEntry
  entry : Option Nat
  stepNo : Nat
  backoffs : Nat
  unmeasuredRun : Nat
  noRoomRun : Nat
  silentRun : Nat
  busyRun : Nat
  ownRecord : Option HopRecord
  display : Option (List HopRecord)
  hops : List HopElem
  stack : List Atten
  steps : Nat
  lastDelta : Option Nat
  ceiling : Option Nat
  plan : Option Plan
  limiting : Nat
  cycleMeasuresStep : Bool
  lastPilot : Nat
  emergency : Bool
  cause : Cause
  causeHop : Nat
  remoteCause : Cause
  gracefulCause : Cause
  timer : Option JobTimer
  keepFrom : Option Time
deriving DecidableEq, Repr, Inhabited

/-! ## Supervisory Link Controller (SLC) -/

/-- The state of a link (R162), in the order of its codes. -/
inductive LinkState where
  | disabled
  | down
  | up
deriving DecidableEq, Repr, Inhabited

/-- What the link knows of the neighbour's fresh flag (R162). -/
inductive NeighbourFresh where
  | unknown
  | fresh
  | notFresh
deriving DecidableEq, Repr, Inhabited

/-- A link record (R162): `heardAt` is the start of the liveness expiry, `aliveFrom` that of the ALIVE timer. -/
structure Link where
  state : LinkState
  heardAt : Option Time
  aliveFrom : Option Time
  queue : List Frame
  neighbour : NeighbourFresh
  badFrames : Nat
deriving DecidableEq, Repr, Inhabited

/-- The four links and the device's fresh period (R162, R167). -/
structure LinkBlock where
  links : Table Config.degrees Link
  freshFrom : Option Time
deriving DecidableEq, Repr

/-! ## Report Writer (RW) -/

/-- The event kinds, in the order of R178's table, which is that of their codes from 1. -/
inductive EventKind where
  | adopted | ordersDiscarded | orderDone | orderRefused | orderIndexBad | jobStarted | jobEnd | intercept | malformedWrite
  | foreignMonitorWrite | channelRemoved | drift | driftClear | channelDark | adoptDark | quarantined | orphan
  | strayFrame | gateExpired | alarmSent | linkUp | linkDown | neighbourRestart | txqFull | setpointFault
deriving DecidableEq, Repr, Inhabited

/-- An event (R178): `cause` is the code of the cause field. -/
structure Event where
  kind : EventKind
  time : Time
  key : Option JobKey
  egress : Option Nat
  slot : Option Nat
  cause : Nat
  tag : Word
  value1 : Word
  value2 : Word
deriving DecidableEq, Repr, Inhabited

/-- The record in flight (R174): how many of its eight writes await their answer, and whether one was answered ERROR. -/
structure Flight where
  event : Event
  left : Nat
  failed : Bool
deriving DecidableEq, Repr, Inhabited

/-- What RW keeps for one status record: its sequence number, and the value last written to each word since the reset
(R179). -/
structure StatusBook where
  seq : BitVec 16
  last : Option (List Word)
deriving DecidableEq, Repr, Inhabited

/-- The Report Writer (R172, R179). -/
structure ReportWriter where
  producer : Nat
  consumer : Nat
  drops : Nat
  queue : List Event
  flight : Option Flight
  books : Table Config.statusRecords StatusBook
deriving DecidableEq, Repr

/-! ## Bus Interposer (BI) -/

/-- The part request classes of the arbiter (R19): (a) protective BLOCK writes, (c) step and cell writes, (d) the rest. -/
inductive ReqClass where
  | a
  | c
  | d
deriving DecidableEq, Repr, Inhabited

/-- What a part access is for, so that its answer finds its requester (R2, R22). -/
inductive Purpose where
  | closing (entry : Nat)
  | step (key : JobKey)
  | commit (key : JobKey)
  | restore (key : JobKey)
  | route (entry : Nat) (key : JobKey)
  | record
  | header
  | status
  | orderLower
  | orderUpper
  | producerWord
  | adoptCell (egress slot : Nat)
  | intakeCell (degree slot : Nat) (discarded : Bool)
deriving DecidableEq, Repr, Inhabited

/-- A part access (R2): a write carries one word; a read has none and its number of beats. `replaced` are the cell and record
writes that this write replaced while they were pending: its answer is returned to their requesters too (R16). -/
structure PartReq where
  cls : ReqClass
  offset : Nat
  beats : Nat
  data : Option Word
  purpose : Purpose
  replaced : List Purpose
deriving DecidableEq, Repr, Inhabited

/-- A snoop that a write beat earns when memory answers its transaction OK (R13, R14). -/
inductive Snoop where
  | reading (degree : Nat) (dir : Dir) (slot : Nat) (word : Word)
  | header (degree : Nat) (sweep : BitVec 16)
  | producer (value : Word) (master : BitVec 4)
  | consumer (value : Word)
deriving DecidableEq, Repr, Inhabited

/-- A beat of the forwarded write transaction that holds the port (R1, R6): its word address, what the master wrote, what
is forwarded (`none` until the check read's answer judges it), whether the check read reads its cell, its report, and
the snoop it earns. -/
structure FwdBeat where
  addr : Word
  written : WriteBeat
  out : Option WriteBeat
  checked : Bool
  report : Option Event
  snoop : Option Snoop
deriving DecidableEq, Repr, Inhabited

/-- The forwarded write transaction that holds the port; `foreignBeats` are the addresses of its monitor and sweep header
beats of a master other than the scanner (R13). -/
structure FwdWrite where
  txn : UpTxn
  beats : List FwdBeat
  foreignBeats : List Word
deriving DecidableEq, Repr, Inhabited

/-- What holds the downstream port (R19). `ending` is a write transaction that a reset cut off, as it stands downstream: its
beats that were not yet issued have their byte enables off (R23). -/
inductive Port where
  | idle
  | checkRead (f : FwdWrite)
  | write (f : FwdWrite)
  | read (t : UpTxn)
  | part (r : PartReq)
  | ending (t : UpTxn)
deriving DecidableEq, Repr, Inhabited

/-- An answer returned upstream (R1): `none` for ERROR, the data of a read for OK. -/
structure UpAnswer where
  txn : UpTxn
  data : Option (List Word)
deriving DecidableEq, Repr, Inhabited

/-- The read hold of one record (R17): when it opened, and the deferred values by offset, ascending. -/
structure Hold where
  opened : Option Clock
  deferred : List (Nat × Word)
deriving DecidableEq, Repr, Inhabited

/-- The Bus Interposer. `winsel` is the latched straps (R3); `offers` the transactions whose masters wait at the port and
`accepted` class (b), both oldest first (R1); `headWaits` the offsets whose pending writes the head of class (b) waits
for (R16); `parts` the pending part requests of classes (a), (c) and (d) in the order of their production (R19);
`bGrants` the count of R20; `answers` the answers given upstream, oldest first. -/
structure BusInterposer where
  winsel : BitVec 4
  offers : List UpTxn
  accepted : List UpTxn
  headWaits : List Nat
  port : Port
  parts : List PartReq
  bGrants : Nat
  holds : Table Config.holdRecords Hold
  answers : List UpAnswer
deriving DecidableEq, Repr

/-- The shelf side of the device: BI, and RW whose every act is a part write. -/
structure Shelf where
  bus : BusInterposer
  rw : ReportWriter
deriving DecidableEq, Repr

/-! ## The device -/

/-- Adoption (R182): the equipped set at its beginning, and whether the producer word's read has been answered. -/
structure Adoption where
  equipped : BitVec 4
  producerRead : Bool
deriving DecidableEq, Repr, Inhabited

/-- What the event being taken has done to status records (R160, R180): the jobs to show, the final words of those it ended,
and what the node status record shows where the event has already updated it (R185). Empty between events; the model's own. -/
structure Marks where
  touched : List Nat
  ended : List (Nat × List Word)
  shown : Option (List Word)
deriving DecidableEq, Repr, Inhabited

/-- Nothing marked. -/
def Marks.none : Marks := ⟨[], [], .none⟩

/-- The whole device, and the queue of the commands that wait for it. `sent` is what each link has sent whole, as bytes
on the fibre, oldest first (R170). -/
structure State where
  pending : List Instr
  mode : Mode
  lastReset : ResetKind
  clock : Clock
  shelf : Shelf
  msu : Msu
  cg : GridBlock
  ord : OrderReader
  cfg : Settings
  pa : PathAgent
  gates : Table Config.gates (Option GateHold)
  jobs : Table Config.jobs (Option Job)
  slc : LinkBlock
  adoption : Adoption
  sent : List (Nat × List Byte)
  marks : Marks
deriving DecidableEq, Repr

/-! ## Outcomes that are not a next state -/

/-- Reasons the machine stops. There is none: an ERROR answer, a full queue and a lost frame all have the effects the
manual gives them, and no event stops the device. -/
inductive Fault where
deriving DecidableEq, Repr

/-- Commands that are no event of the block in the state they meet. Each is safe: no claim is made of such a command. -/
inductive Refusal where
  /-- Raised by exec for a command that has no meaning yet. Safe. -/
  | notModelled (mnemonic : String)
  /-- Raised by every meaning for operands outside the ranges of `Instr.wellFormed`. Safe. -/
  | illFormed
  /-- Raised by the answer commands when the downstream port holds no access of their kind: memory answers only what it
  was asked (R1, R19). Safe. -/
  | noAnswerDue
  /-- Raised by the read answers when memory's words are not as many as were asked for. Safe. -/
  | answerShape
  /-- Raised by the grant commands when the arbiter of R19 and R20 makes no such grant. Safe. -/
  | noGrantDue
  /-- Raised by the order commands when the record read is an order of another kind (R59). Safe. -/
  | otherOrderKind
  /-- Raised by BAD_FRAME when the bytes pass every check of R164. Safe. -/
  | frameIsValid
  /-- Raised by RESET_END when no reset is in progress (R24). Safe. -/
  | noResetInProgress
  /-- Raised by FRAME_SENT when the link's queue is empty (R170). Safe. -/
  | nothingToSend
deriving DecidableEq, Repr

/-! ## Right after a power-on reset -/

/-- The default of every profile (R67). -/
def Profile.por : Profile := ⟨10, 150, 2, 200, 2500, 1500⟩

/-- The default settings of a line degree (R71). -/
def DegreeSettings.por : DegreeSettings := ⟨60, 120, 100, 2000, 300, 800⟩

/-- The default node settings (R71). -/
def NodeSettings.por : NodeSettings :=
  ⟨0, 0b1111, Table.fill Config.degrees DegreeSettings.por, 600, 500, 1, true⟩

/-- The default sensitivity table (R69). -/
def sensitivityPor : Table 32 Nat :=
  ⟨[3, 6, 15, 36, 75, 135, 240, 300,
    1, 2, 5, 12, 25, 45, 80, 100,
    1, 1, 3, 8, 16, 30, 55, 70,
    1, 1, 2, 5, 10, 20, 36, 48], rfl⟩

/-- The configuration that a power-on reset sets (R64, R67, R69, R71). -/
def Settings.por : Settings :=
  ⟨NodeSettings.por, Table.fill Config.profiles Profile.por, sensitivityPor, Table.fill Config.jobs 0⟩

/-- A free grid entry, with no owner, no commit level and both flags clear (R40). -/
def GridEntry.freeEntry : GridEntry := ⟨.free, none, none, false, false⟩

/-- The node status words of the first update after a power-on reset (R180, section 12.2): sequence 1, ADOPTING; node ID
0, every degree equipped; every link DOWN; nothing live. -/
def firstNodeWords : List Word :=
  [0x00000001, 0x000F0000, 0x00000055, 0, 0, 0, 0, 0, 0, 0, 0, 0, 0, 0, 0, 0x00000001]

/-- The part requests of the beginning of adoption with every degree equipped, in the order of R182. -/
def firstRequests : List PartReq :=
  (List.zipWith (fun i w => ⟨.d, 0x3100 + 4 * i, 1, some w, .status, []⟩) (List.range 16) firstNodeWords)
    ++ [⟨.d, 0x5000, 1, some 0, .header, []⟩, ⟨.d, 0x5004, 1, some 0, .header, []⟩,
        ⟨.d, 0x5008, 1, some 0, .header, []⟩, ⟨.d, 0x3000, 1, none, .producerWord, []⟩]
    ++ (List.range Config.gridEntries).map
        (fun i => ⟨.d, 4 * i, 1, none, .adoptCell (i / Config.slots) (i % Config.slots), []⟩)

/-- A DOWN link at the end of a reset: its ALIVE timer runs from time 0 (R162). -/
def Link.started : Link := ⟨.down, none, some 0, [], .unknown, 0⟩

/-- The machine right after reset: a power-on reset has just ended with every WINSEL strap read 0, the device is
ADOPTING, and the requests of R182 are pending. Log entries 2 and 3. -/
def State.reset : State where
  pending := []
  mode := .adopting
  lastReset := .powerOn
  clock := ⟨0, 0⟩
  shelf :=
    ⟨⟨0, [], [], [], .idle, firstRequests, 0, Table.fill Config.holdRecords ⟨none, []⟩, []⟩,
     ⟨0, 0, 0, [], none,
      (Table.fill Config.statusRecords ⟨0, none⟩).set 0 ⟨1, some firstNodeWords⟩⟩⟩
  msu := ⟨Table.fill Config.snapEntries SnapEntry.afterReset, Table.fill Config.degrees none⟩
  cg :=
    ⟨Table.fill Config.gridEntries GridEntry.freeEntry, Table.fill Config.gridEntries .unread,
     Table.fill Config.degrees none, Table.fill Config.degrees false⟩
  ord := ⟨0, 0, none, .waiting⟩
  cfg := Settings.por
  pa := ⟨Table.fill Config.entries none, []⟩
  gates := Table.fill Config.gates none
  jobs := Table.fill Config.jobs none
  slc := ⟨Table.fill Config.degrees Link.started, none⟩
  adoption := ⟨0b1111, false⟩
  sent := []
  marks := Marks.none

end Sys2Proof.Machine
end

