-- ==== Sys2Proof/Machine/Codes.lean ====
section
/-! DEFINITION. The codes of enumerated values: the cause table of section 12.2, the event kinds, and every other list
counted from 0 in the order its defining rule first lists it (R187). -/

namespace Sys2Proof.Machine

/-- Every cause, in code order from 0 (section 12.2). -/
def causeTable : List Cause :=
  [.none,
   .loss, .overload, .excursion, .misroute, .noLight, .display, .pathSilent, .pathLost, .remoteAlarm, .gateExpired,
   .setpointFault, .ordered, .budget, .monitor, .noRoom, .congested, .stepLimit, .floor,
   .pathMismatch, .notReady, .pathTail, .pathForm, .degree, .noEntry, .duplicate, .slotBusy, .ingressLit, .drifting, .link,
   .pathLength, .pathHead, .loop, .slot, .nodeUnset, .readError, .badKind, .notQuarantined, .busy, .nodeId, .noJob,
   .badState, .owned, .reroute, .orphan, .adoptDark, .clamped]

/-- The code of a cause. -/
def Cause.code (c : Cause) : Nat := causeTable.idxOf c

/-- The cause a code names, where it names one. -/
def Cause.ofCode (n : Nat) : Option Cause := causeTable[n]?

/-- Every event kind, in code order from 1 (R187). -/
def eventKindTable : List EventKind :=
  [.adopted, .ordersDiscarded, .orderDone, .orderRefused, .orderIndexBad, .jobStarted, .jobEnd, .intercept,
   .malformedWrite, .foreignMonitorWrite, .channelRemoved, .drift, .driftClear, .channelDark, .adoptDark, .quarantined,
   .orphan, .strayFrame, .gateExpired, .alarmSent, .linkUp, .linkDown, .neighbourRestart, .txqFull, .setpointFault]

/-- The code of an event kind; 0 is never written (R187). -/
def EventKind.code (k : EventKind) : Nat := eventKindTable.idxOf k + 1

/-- The codes of grid states (R40). -/
def GridState.code : GridState → Nat
  | .free => 0
  | .reserved => 1
  | .ramping => 2
  | .inService => 3
  | .quarantined => 4

/-- The codes of deviation results, in the order in which the table of R35, R38 and R81 list them; R36 ranks them in another
(R187; log entry 28). -/
def DevResult.code : DevResult → Nat
  | .ok => 0
  | .loss => 1
  | .overload => 2
  | .unmeasured => 3

/-- The deviation result of a two bit code: each code names one (log entry 28). -/
def DevResult.ofCode (n : Nat) : DevResult :=
  match n with
  | 0 => .ok
  | 1 => .loss
  | 2 => .overload
  | _ => .unmeasured

/-- The codes of continuity results, in the order in which R38 and R81 list them; the table of R37 names them in another (R187;
log entry 28). -/
def ContResult.code : ContResult → Nat
  | .lit => 0
  | .notYet => 1
  | .noLight => 2
  | .misroute => 3
  | .unmeasured => 4

/-- The continuity result a code names, where it names one. -/
def ContResult.ofCode (n : Nat) : Option ContResult :=
  match n with
  | 0 => some .lit
  | 1 => some .notYet
  | 2 => some .noLight
  | 3 => some .misroute
  | 4 => some .unmeasured
  | _ => none

/-- The codes of roles, in the order in which R77 lists them; the table of R76 names LOCAL before TRANSIT (log entry 28). -/
def Role.code : Role → Nat
  | .head => 0
  | .transit => 1
  | .tail => 2
  | .localRole => 3

/-- The codes of job kinds (R139). -/
def JobKind.code : JobKind → Nat
  | .path => 0
  | .light => 1
  | .raise => 2

/-- The codes of phases (R139). -/
def Phase.code : Phase → Nat
  | .claiming => 0
  | .gating => 1
  | .settling => 2
  | .measuring => 3
  | .waiting => 4
  | .suspended => 5
  | .unwinding => 6
  | .committing => 7

/-- The codes of plan outcomes in word 5 of a job status record, where 0 is none (section 12.2). -/
def PlanOutcome.code : PlanOutcome → Nat
  | .step => 1
  | .commitTest => 2
  | .noRoom => 3

/-- The codes of end outcomes in word 8 of a job status record, where 0 is live (section 12.2). -/
def JobOutcome.code : JobOutcome → Nat
  | .committed => 1
  | .commitUnconfirmed => 2
  | .commitFault => 3
  | .refused => 4
  | .abortedEmergency => 5
  | .abortedGraceful => 6

/-- The codes of link states in word 2 of the node status record (section 12.2). -/
def LinkState.code : LinkState → Nat
  | .disabled => 0
  | .down => 1
  | .up => 2

/-- The decision codes a STEP_END may carry: CONTINUE, HOLD, RELEASE (R116, section 12.3). -/
def decisionContinue : Byte := 0
/-- HOLD. -/
def decisionHold : Byte := 1
/-- RELEASE. -/
def decisionRelease : Byte := 2

end Sys2Proof.Machine

namespace Sys2Proof

/-- A direction's number: 0 IN, 1 OUT (section 12.1). -/
def Dir.code : Dir → Nat
  | .inward => 0
  | .outward => 1

/-- The kind codes of path frames (section 12.3). -/
def FrameBody.code : FrameBody → Nat
  | .claim _ => 1
  | .confirm _ => 2
  | .refuse _ _ => 3
  | .intent _ _ => 4
  | .ready => 5
  | .busy _ => 6
  | .measure _ _ => 7
  | .report _ => 8
  | .stepEnd _ => 9
  | .commit => 10
  | .committed => 11
  | .abort _ => 12
  | .alarm _ _ => 13
  | .keep => 14

/-- Kinds that travel from tail toward head (R80). -/
def FrameBody.upstream : FrameBody → Bool
  | .claim _ => false
  | .confirm _ => true
  | .refuse _ _ => true
  | .intent _ _ => false
  | .ready => true
  | .busy _ => true
  | .measure _ _ => false
  | .report _ => true
  | .stepEnd _ => false
  | .commit => false
  | .committed => true
  | .abort _ => false
  | .alarm _ _ => true
  | .keep => false

end Sys2Proof
end

