-- ==== Sys2Proof/Machine/Fields.lean ====
section
/-! DEFINITION. Bit fields of words: a field n:m takes bits n down to m as an unsigned number, and bits in no field are 0
in every word the device writes (R187). -/

namespace Sys2Proof.Machine

/-- The `len` bits of `w` from bit `lo` up, as a number. -/
def bitsOf {n : Nat} (w : BitVec n) (lo len : Nat) : Nat := w.toNat / 2 ^ lo % 2 ^ len

/-- A field to be written: a value, its lowest bit, its length. -/
structure Field where
  value : Nat
  lo : Nat
  len : Nat
deriving DecidableEq, Repr

/-- The word that holds these fields, and 0 in every other bit. -/
def packWord (fs : List Field) : Word :=
  fs.foldl (fun w f => w ||| BitVec.ofNat 32 (f.value % 2 ^ f.len * 2 ^ f.lo)) 0

/-- A flag as one bit. -/
def flag (b : Bool) : Nat := if b then 1 else 0

/-- Sixteen bits read as signed two's complement. -/
def signed16 (n : Nat) : Int := if n < 32768 then n else (n : Int) - 65536

/-- A level as sixteen bits of two's complement. -/
def levelBits (l : Int) : Nat := (l % 65536).toNat

/-- A level carried in an event value: bits 15:0, and bit 16 set when it is present (section 12.2). -/
def levelValue (l : Option Int) : Word :=
  match l with
  | none => 0
  | some x => packWord [⟨levelBits x, 0, 16⟩, ⟨1, 16, 1⟩]

/-- The code of an attenuation: BLOCK is 4095 (sections 12.2 and 12.3). -/
def Atten.code : Atten → Nat
  | .hdb n => n
  | .block => 4095

/-- The attenuation a code stands for: 4095 is BLOCK, and every other code is that number of hdB, 4096..65535 of a sixteen
bit field too, which the manual leaves open (log entry 17). -/
def Atten.ofCode (n : Nat) : Atten := if n = 4095 then .block else .hdb n

/-- An attenuation is at most a number of hdB; BLOCK is above every number. -/
def Atten.atMost (a : Atten) (n : Nat) : Bool :=
  match a with
  | .hdb m => m ≤ n
  | .block => false

end Sys2Proof.Machine

namespace Sys2Proof

/-- A job key in a record: head node ID 15:0, job number 18:16, generation 23:20 (section 12.2). -/
def JobKey.bits (k : JobKey) : Nat := k.node.toNat + k.job.toNat * 2 ^ 16 + k.gen.toNat * 2 ^ 20

end Sys2Proof
end

