-- ==== Sys2Proof/Machine/Frames.lean ====
section
/-! DEFINITION. Supervisory frames as bytes: the CRC of R164, the layouts of section 12.3, and the checks a receiving link
makes (R164, R188). -/

namespace Sys2Proof.Machine

/-! ## The CRC (R164) -/

/-- One bit of the CRC: polynomial 0x1021, most significant bit first. -/
def crcBit (c : BitVec 16) : BitVec 16 := if c.msb then (c <<< 1) ^^^ 0x1021 else c <<< 1

/-- One byte of the CRC. -/
def crcByte (c : BitVec 16) (b : Byte) : BitVec 16 :=
  crcBit (crcBit (crcBit (crcBit (crcBit (crcBit (crcBit (crcBit (c ^^^ (b.setWidth 16 <<< 8)))))))))

/-- The CRC of a run of bytes, from 0xFFFF, with no reflection and no final inversion. -/
def crc16 (bytes : List Byte) : BitVec 16 := bytes.foldl crcByte 0xFFFF

/-! ## Sending (section 12.3) -/

/-- A sixteen bit field, most significant byte first. -/
def bytes16 (x : BitVec 16) : List Byte := [x.extractLsb' 8 8, x.extractLsb' 0 8]

/-- The job number in bits 2:0 and the generation in bits 7:4; bit 3, which is in no field, is sent 0, in a relayed frame
too (log entry 28). -/
def keyByte (k : JobKey) : Byte := k.gen ++ (0 : BitVec 1) ++ k.job

/-- The common five bytes of a path frame. -/
def commonBytes (f : PathFrame) : List Byte :=
  [BitVec.ofNat 8 f.body.code] ++ bytes16 f.key.node ++ [keyByte f.key, f.step]

/-- A path list entry, four bytes. -/
def pathBytes (e : PathEntry) : List Byte := bytes16 e.node ++ [e.ingress, e.egress]

/-- A hop record, thirteen bytes. The bits of its results byte that are in no field, 3:2 and 7, are sent as the record holds
them: 0 in the node's own, as received in one that it relays (log entry 28). -/
def hopBytes (h : HopRecord) : List Byte :=
  [h.hop] ++ bytes16 h.node ++ [h.results] ++ bytes16 h.dev ++ bytes16 h.budget ++ bytes16 h.limit ++ [h.count]
    ++ bytes16 h.tnext

/-- A display: its count and its records. -/
def displayBytes (d : List HopRecord) : List Byte := BitVec.ofNat 8 d.length :: d.flatMap hopBytes

/-- The bytes between the common five and the CRC. -/
def bodyBytes : FrameBody → List Byte
  | .claim c =>
    [c.slot] ++ bytes16 c.pilot ++ bytes16 c.target ++ bytes16 c.start ++ bytes16 c.visibility
      ++ (BitVec.ofNat 8 c.path.length :: c.path.flatMap pathBytes) ++ displayBytes c.display
  | .confirm d => displayBytes d
  | .refuse c h => [c, h]
  | .intent a t => bytes16 a ++ bytes16 t
  | .ready => []
  | .busy h => [h]
  | .measure a t => bytes16 a ++ bytes16 t
  | .report d => displayBytes d
  | .stepEnd d => [d]
  | .commit => []
  | .committed => []
  | .abort c => [c]
  | .alarm c h => [c, h]
  | .keep => []

/-- The bytes of a frame before its CRC. -/
def frameBytes : Frame → List Byte
  | .alive flags => [0, flags]
  | .path f => commonBytes f ++ bodyBytes f.body

/-- A frame as sent: its bytes, then the CRC over them (R164, R170). -/
def encodeFrame (f : Frame) : List Byte := frameBytes f ++ bytes16 (crc16 (frameBytes f))

/-! ## Receiving (R164, R188) -/

/-- Two bytes as a sixteen bit field. -/
def word16 (hi lo : Byte) : BitVec 16 := hi ++ lo

/-- The job key of a path frame's common part; bit 3 of its byte, which is in no field, is ignored (log entry 28). -/
def keyOf (hi lo k : Byte) : JobKey := ⟨word16 hi lo, k.extractLsb' 0 3, k.extractLsb' 4 4⟩

/-- `n` path list entries, and the bytes after them. -/
def takePath : Nat → List Byte → Option (List PathEntry × List Byte)
  | 0, bs => some ([], bs)
  | n + 1, a :: b :: i :: e :: bs => (takePath n bs).map fun (es, r) => (⟨word16 a b, i, e⟩ :: es, r)
  | _ + 1, _ => none

/-- `n` hop records, each field of them as received, and the bytes after them (log entry 28). -/
def takeHops : Nat → List Byte → Option (List HopRecord × List Byte)
  | 0, bs => some ([], bs)
  | n + 1, h :: n1 :: n0 :: r :: d1 :: d0 :: b1 :: b0 :: l1 :: l0 :: c :: t1 :: t0 :: bs =>
    (takeHops n bs).map fun (hs, rest) =>
      (⟨h, word16 n1 n0, r, word16 d1 d0, word16 b1 b0, word16 l1 l0, c, word16 t1 t0⟩ :: hs, rest)
  | _ + 1, _ => none

/-- A whole run of bytes as a display: its count lies in 0..16 and no byte follows its records. -/
def parseDisplay : List Byte → Option (List HopRecord)
  | n :: bs =>
    if n.toNat ≤ 16 then
      match takeHops n.toNat bs with
      | some (hs, []) => some hs
      | _ => none
    else none
  | [] => none

/-- The bytes of a CLAIM between the common five and the CRC: its path count lies in 2..16. -/
def parseClaim : List Byte → Option ClaimBody
  | s :: p1 :: p0 :: t1 :: t0 :: a1 :: a0 :: v1 :: v0 :: n :: bs =>
    if 2 ≤ n.toNat ∧ n.toNat ≤ 16 then
      match takePath n.toNat bs with
      | some (path, rest) =>
        (parseDisplay rest).map fun d => ⟨s, word16 p1 p0, word16 t1 t0, word16 a1 a0, word16 v1 v0, path, d⟩
      | none => none
    else none
  | _ => none

/-- The fields of a kind, where the kind is a path kind and the length is the one it gives. -/
def parseBody (kind : Nat) (bs : List Byte) : Option FrameBody :=
  match kind, bs with
  | 1, bs => (parseClaim bs).map .claim
  | 2, bs => (parseDisplay bs).map .confirm
  | 3, [c, h] => some (.refuse c h)
  | 4, [a1, a0, t1, t0] => some (.intent (word16 a1 a0) (word16 t1 t0))
  | 5, [] => some .ready
  | 6, [h] => some (.busy h)
  | 7, [a1, a0, t1, t0] => some (.measure (word16 a1 a0) (word16 t1 t0))
  | 8, bs => (parseDisplay bs).map .report
  | 9, [d] => some (.stepEnd d)
  | 10, [] => some .commit
  | 11, [] => some .committed
  | 12, [c] => some (.abort c)
  | 13, [c, h] => some (.alarm c h)
  | 14, [] => some .keep
  | _, _ => none

/-- A frame's bytes before its CRC: ALIVE has no common part. -/
def parseFrameBytes : List Byte → Option Frame
  | [0, flags] => some (.alive flags)
  | kind :: n1 :: n0 :: k :: step :: bs =>
    (parseBody kind.toNat bs).map fun b => .path ⟨keyOf n1 n0 k, step, b⟩
  | _ => none

/-- The frame a run of bytes is, where it passes every check of R164: no frame is longer than 290 bytes (R188), and the
last two bytes are the CRC of those before them. -/
def decodeFrame (bytes : List Byte) : Option Frame :=
  let n := bytes.length - 2
  if 3 ≤ bytes.length ∧ bytes.length ≤ 290 ∧ bytes.drop n = bytes16 (crc16 (bytes.take n)) then
    parseFrameBytes (bytes.take n)
  else none

/-! ## Fields of received frames -/

/-- The deviation result of a hop record: bits 1:0 of its results byte (section 12.3). -/
def devResultOf (h : HopRecord) : DevResult := DevResult.ofCode (bitsOf h.results 0 2)

/-- The continuity result of a hop record: bits 6:4, where the code names one (section 12.3, R188). -/
def contResultOf (h : HopRecord) : Option ContResult := ContResult.ofCode (bitsOf h.results 4 3)

/-- The results byte of the node's own hop record: its bits in no field, 3:2 and 7, are 0 (log entry 28). -/
def resultsByte (d : DevResult) (c : ContResult) : Byte := BitVec.ofNat 8 (d.code + 16 * c.code)

/-- Every result code of a display names a value (R188). -/
def displayCodesOk (d : List HopRecord) : Bool := d.all fun h => (contResultOf h).isSome

/-- A degree code names L or a line degree (R188). -/
def degreeCodeOk (b : Byte) : Bool := b.toNat ≤ 4

/-- A cause code names a value of the cause table (R188). -/
def causeCodeOk (b : Byte) : Bool := (Cause.ofCode b.toNat).isSome

/-- Every degree, result, cause and decision code of a frame names a value (R188). -/
def codesOk : FrameBody → Bool
  | .claim c => (c.path.all fun e => degreeCodeOk e.ingress && degreeCodeOk e.egress) && displayCodesOk c.display
  | .confirm d => displayCodesOk d
  | .refuse c _ => causeCodeOk c
  | .intent _ _ => true
  | .ready => true
  | .busy _ => true
  | .measure _ _ => true
  | .report d => displayCodesOk d
  | .stepEnd d => d.toNat ≤ 2
  | .commit => true
  | .committed => true
  | .abort c => causeCodeOk c
  | .alarm c _ => causeCodeOk c
  | .keep => true

end Sys2Proof.Machine
end

