-- ==== Sys2Proof/Machine/Limits.lean ====
section
/-! DEFINITION. The lengths of the device's timers, windows and lists, each from the rule that states it. Times are in ms
but for the read hold's. -/

namespace Sys2Proof.Machine

/-- Transactions BI holds accepted and not complete (R1). -/
def acceptLimit : Nat := 4
/-- A read hold closes this many microseconds after it opened (R17). -/
def readHoldMicros : Nat := 50
/-- Class (b) grants in a row while a (c) or (d) request waits (R20). -/
def bGrantLimit : Nat := 4
/-- An attenuation lowered by at most this passes without a job: the free step (R9). -/
def freeStep : Nat := 30
/-- A snapshot entry expires (R28). -/
def entryLife : Nat := 6000
/-- The orphan timer (R97). -/
def orphanLength : Nat := 10000
/-- The KEEP timer (R96). -/
def keepLength : Nat := 2000
/-- The life of a commit return record, and the records the list holds (R91). -/
def returnLength : Nat := 1050
/-- The most records in the commit return list (R91). -/
def returnLimit : Nat := 32
/-- The hold limit of a gate (R104). -/
def gateLimit : Nat := 8000
/-- The liveness expiry of a link (R165). -/
def livenessLength : Nat := 350
/-- The ALIVE timer (R167). -/
def aliveLength : Nat := 100
/-- The device's fresh period (R167). -/
def freshLength : Nat := 1000
/-- Frames a transmit queue holds (R162). -/
def txqLimit : Nat := 8
/-- Events the publication queue holds (R172). -/
def queueLimit : Nat := 64
/-- Slots of the report ring (R172). -/
def ringSlots : Nat := 128
/-- Bound of the drop count (R172). -/
def dropLimit : Nat := 255
/-- Bound of a bad-frame count (R162). -/
def badFrameLimit : Nat := 65535
/-- Slots of the order ring (R57). -/
def orderSlots : Nat := 32
/-- Depth of a rollback stack (R139). -/
def stackLimit : Nat := 8
/-- Highest step number (R141). -/
def stepLimit : Nat := 255
/-- Highest backoff count (R141). -/
def backoffLimit : Nat := 3
/-- The busy run that ends a job (R110). -/
def busyLimit : Nat := 40
/-- The unmeasured or no-room run that ends a job (R144). -/
def holdLimit : Nat := 3
/-- The silent run that ends a job (R119). -/
def silentLimit : Nat := 2
/-- Greatest attenuation that is a number (00_scope.md section 5). -/
def attMax : Nat := 2500
/-- Greatest D a hop record carries (R81). -/
def devMax : Nat := 32767
/-- Greatest sensitivity and correction factor (R128). -/
def permilleMax : Nat := 4000
/-- The allowance of a hop that sets no limit (R129). -/
def allowanceMax : Nat := 65535
/-- The most hop records a frame carries (R164, R188). -/
def displayLimit : Nat := 16
/-- Part accesses carry this master ID (R2). -/
def partMaster : BitVec 4 := 15

/-- The CONFIRM, READY/BUSY and COMMITTED windows of a path of `n` nodes (R118). -/
def replyWindow (n : Nat) : Nat := 250 + 50 * n
/-- The REPORT window (R118). -/
def reportWindow (period n : Nat) : Nat := 3 * period + 250 + 50 * n
/-- The retry delay of a job number (R110, R121). -/
def retryDelay (j : Nat) : Nat := 150 + 50 * j

/-- A timer has reached its length (00_scope.md section 5). -/
def Timer.due (t : Timer) (now : Time) : Bool := t.length ≤ (now - t.start).toNat

/-- The microseconds from one instant of the clock to another, on the wrapping time base (R17). -/
def Clock.microsSince (now start : Clock) : Int :=
  ((now.ms - start.ms).toNat : Int) * 1000 + now.us - start.us

end Sys2Proof.Machine
end

