-- ==== Sys2Proof/Machine/Operands.lean ====
section
/-! DEFINITION. The words and records in memory as the device reads and writes them: the governed window's regions, the
cell word, the monitor reading, the order record (chapter 12). -/

namespace Sys2Proof.Machine

/-! ## The governed window (R3, section 12.1) -/

/-- The base of the window that the latched straps place (R3). -/
def windowBase (winsel : BitVec 4) : Word := 0x40000000 + BitVec.ofNat 32 (winsel.toNat * 0x10000)

/-- The offset of a word address in the window, where it lies in the window (R3). -/
def windowOffset (winsel : BitVec 4) (addr : Word) : Option Nat :=
  let o := (addr - windowBase winsel).toNat
  if o < 0x10000 then some o else none

/-- The word address of beat `i` of a transaction (R1). -/
def beatAddr (t : UpTxn) (i : Nat) : Word := (t.addr &&& 0xFFFFFFFC) + BitVec.ofNat 32 (4 * i)

/-- The word addresses of a transaction's beats, in beat order. -/
def beatAddrs (t : UpTxn) : List Word := (List.range t.burst.length).map (beatAddr t)

/-- The regions that BI sorts an upstream beat into (R4); the record regions carry the index of their read hold. -/
inductive Region where
  | cell (egress slot : Nat)
  | monitor (degree : Nat) (dir : Dir) (slot : Nat)
  | sweepHeader (degree : Nat)
  | producerWord
  | consumerWord
  | ordinary
  | outside
deriving DecidableEq, Repr

/-- The region of a word offset (section 12.1). The status records, the report header's other words, both rings and
ordinary memory are all forwarded unchanged with no report (R15), and stand here as `ordinary`. -/
def regionOfOffset (o : Nat) : Region :=
  if o < 0x0780 then .cell (o / 4 / 96) (o / 4 % 96)
  else if 0x1000 ≤ o ∧ o < 0x1C00 then
    let i := (o - 0x1000) / 4
    .monitor (i / 192 + 1) (if i / 96 % 2 = 0 then .inward else .outward) (i % 96)
  else if 0x1C00 ≤ o ∧ o < 0x1C10 then .sweepHeader ((o - 0x1C00) / 4 + 1)
  else if o = 0x3000 then .producerWord
  else if o = 0x5004 then .consumerWord
  else .ordinary

/-- The region of an upstream beat (R4). -/
def regionOf (winsel : BitVec 4) (addr : Word) : Region :=
  match windowOffset winsel addr with
  | some o => regionOfOffset o
  | none => .outside

/-- Offset of cell (e, s). -/
def cellOffset (e s : Nat) : Nat := (e * 96 + s) * 4
/-- Offset of order slot i. -/
def orderOffset (i : Nat) : Nat := 0x2000 + i * 128
/-- Offset of the order producer word. -/
def orderProducerOffset : Nat := 0x3000
/-- Offset of report slot i. -/
def reportOffset (i : Nat) : Nat := 0x4000 + i * 32
/-- Offset of the report producer word. -/
def producerOffset : Nat := 0x5000
/-- Offset of the report consumer word. -/
def consumerOffset : Nat := 0x5004
/-- Offset of the drop count word. -/
def dropOffset : Nat := 0x5008

/-- First offset of hold record r: 0 the node status record, 1..8 job status records 0..7, 9 the report header (R17). -/
def holdBase (r : Nat) : Nat :=
  if r = 0 then 0x3100 else if r ≤ 8 then 0x3200 + (r - 1) * 64 else producerOffset

/-- Words of hold record r: sixteen of a status record, three of the report header (R17, section 12.1). -/
def holdWords (r : Nat) : Nat := if r ≤ 8 then 16 else 3

/-- First offset of the last word of hold record r. -/
def holdLast (r : Nat) : Nat := holdBase r + 4 * (holdWords r - 1)

/-- The hold record that a word offset lies in. -/
def holdOf (o : Nat) : Option Nat :=
  if 0x3100 ≤ o ∧ o < 0x3140 then some 0
  else if 0x3200 ≤ o ∧ o < 0x3400 then some ((o - 0x3200) / 64 + 1)
  else if producerOffset ≤ o ∧ o ≤ dropOffset then some 9
  else none

/-! ## The cell word (section 1.4, section 12.2) -/

/-- The source of a cell word, 6 and 7 taken as none. -/
def cellSource (w : Word) : Nat :=
  let s := bitsOf w 12 3
  if 6 ≤ s then 0 else s

/-- The attenuation of a cell word. -/
def cellAtten (w : Word) : Atten := Atten.ofCode (bitsOf w 0 12)

/-- A cell is lit when its source is not none and its attenuation is not BLOCK. -/
def cellLit (w : Word) : Bool := cellSource w != 0 && cellAtten w != .block

/-- The clamp of R5 applies: the attenuation written is 2501..4094. -/
def clampApplies (w : Word) : Bool := attMax < bitsOf w 0 12 && bitsOf w 0 12 < 4095

/-- The rewrite of R5: pilot 0, the attenuation clamped, every other bit as written. -/
def rewriteCell (w : Word) : Word :=
  if clampApplies w then (w &&& 0xF000F000) ||| BitVec.ofNat 32 attMax else w &&& 0xF000FFFF

/-- A cell word as the device writes it. -/
def mkCell (source pilot : Nat) (a : Atten) : Word :=
  packWord [⟨a.code, 0, 12⟩, ⟨source, 12, 3⟩, ⟨pilot, 16, 12⟩]

/-! ## The monitor reading (R26, section 12.2) -/

/-- The class and level that a scanner's word gives its entry (R26). -/
def readingClass (w : Word) : LevelClass × Option Int :=
  let level := signed16 (bitsOf w 0 16)
  match bitsOf w 16 2 with
  | 0 => (.dark, none)
  | 1 =>
    if level < -6000 then (.dark, none)
    else if level ≤ 2500 then (.finite, some level)
    else (.over, none)
  | 2 => (.over, none)
  | _ => (.stale, none)

/-- The pilot of a monitor reading. -/
def readingPilot (w : Word) : Nat := bitsOf w 18 12

/-! ## The order record (R59, R62 to R72, section 12.2) -/

/-- An order record: 32 words, the lower 16 first (R59). -/
abbrev OrderRecord := List Word

/-- Word i of an order record. -/
def orderWord (r : OrderRecord) (i : Nat) : Word := r.getD i 0

/-- The kind code of an order. -/
def orderKind (r : OrderRecord) : Nat := bitsOf (orderWord r 0) 0 8

/-- The tag of an order. -/
def orderTag (r : OrderRecord) : Word := orderWord r 1

/-- The fields of a TURN_UP (R62). -/
structure TurnUpOrder where
  profile : Nat
  pilot : Nat
  target : Nat
  slot : Nat
  hops : Nat
  path : List PathEntry
deriving DecidableEq, Repr

/-- A path list entry of a TURN_UP. -/
def orderPathEntry (w : Word) : PathEntry :=
  ⟨BitVec.ofNat 16 (bitsOf w 0 16), BitVec.ofNat 8 (bitsOf w 16 3), BitVec.ofNat 8 (bitsOf w 20 3)⟩

/-- The TURN_UP an order record holds; entries from the hop count on are disregarded. -/
def turnUpOf (r : OrderRecord) : TurnUpOrder :=
  let hops := bitsOf (orderWord r 3) 8 5
  { profile := bitsOf (orderWord r 2) 24 2
    pilot := bitsOf (orderWord r 2) 12 12
    target := bitsOf (orderWord r 2) 0 12
    slot := bitsOf (orderWord r 3) 0 7
    hops := hops
    path := (List.range (min hops 16)).map fun i => orderPathEntry (orderWord r (4 + i)) }

/-- The job number of a SUSPEND, RESUME or ABORT (R65). -/
def orderJob (r : OrderRecord) : Nat := bitsOf (orderWord r 2) 0 3

/-- The immediate flag of an ABORT (R65). -/
def orderImmediate (r : OrderRecord) : Bool := bitsOf (orderWord r 2) 8 1 == 1

/-- The egress of a RELEASE (R66). -/
def releaseEgress (r : OrderRecord) : Nat := bitsOf (orderWord r 2) 0 3

/-- The slot of a RELEASE (R66). -/
def releaseSlot (r : OrderRecord) : Nat := bitsOf (orderWord r 2) 8 7

/-- The degree of a CLEAR_WATCH (R66). -/
def clearDegree (r : OrderRecord) : Nat := bitsOf (orderWord r 2) 0 3

/-- The settle times that the four codes select (R67, R68). -/
def settleOf (code : Nat) : Nat :=
  match code with
  | 0 => 20
  | 1 => 50
  | 2 => 200
  | _ => 1000

/-- The drift intervals that the four codes select, in ms (R71). -/
def intervalOf (code : Nat) : Nat :=
  match code with
  | 0 => 500
  | 1 => 2000
  | 2 => 10000
  | _ => 30000

/-- The profile index of a LOAD_PROFILE. -/
def profileIndex (r : OrderRecord) : Nat := bitsOf (orderWord r 2) 0 2

/-- The profile of a LOAD_PROFILE before its clamps. -/
def rawProfile (r : OrderRecord) : Profile :=
  { minStep := bitsOf (orderWord r 3) 0 12
    maxStep := bitsOf (orderWord r 3) 16 12
    leadIn := bitsOf (orderWord r 5) 0 3
    settle := settleOf (bitsOf (orderWord r 5) 4 2)
    start := bitsOf (orderWord r 4) 0 12
    visibility := bitsOf (orderWord r 4) 16 12 }

/-- A value held within two bounds. -/
def clampTo (lo hi n : Nat) : Nat := max lo (min hi n)

/-- The clamps of R68, in its order: max step is held at or above the clamped min step. -/
def clampProfile (p : Profile) : Profile :=
  let m := clampTo 1 200 p.minStep
  { p with
    minStep := m
    maxStep := clampTo m 300 p.maxStep
    start := clampTo 1000 attMax p.start
    visibility := min attMax p.visibility }

/-- Which of R68's four clamps applied, in bits 3:0 in their order (section 12.2). -/
def profileClamps (p : Profile) : Word :=
  let q := clampProfile p
  packWord [⟨flag (p.minStep != q.minStep), 0, 1⟩, ⟨flag (p.maxStep != q.maxStep), 1, 1⟩,
    ⟨flag (p.start != q.start), 2, 1⟩, ⟨flag (p.visibility != q.visibility), 3, 1⟩]

/-- Value v of a LOAD_TABLE: the low half of its word for even v, the high half for odd (section 12.2). -/
def tableValue (r : OrderRecord) (v : Nat) : Nat := bitsOf (orderWord r (2 + v / 2)) (16 * (v % 2)) 16

/-- The table of a LOAD_TABLE, each value above 4000 made 4000 (R69). -/
def clampedTable (r : OrderRecord) : Table 32 Nat :=
  ⟨(List.range 32).map fun v => min permilleMax (tableValue r v), by simp⟩

/-- How many values a LOAD_TABLE clamps (R69). -/
def clampedCount (r : OrderRecord) : Nat :=
  ((List.range 32).filter fun v => permilleMax < tableValue r v).length

/-- A degree's settings in a SET_NODE, before the clamps; `i` is the degree less 1. -/
def rawDegree (r : OrderRecord) (i : Nat) : DegreeSettings :=
  { budget := bitsOf (orderWord r (3 + i)) 0 10
    limit := bitsOf (orderWord r (3 + i)) 10 10
    driftLimit := bitsOf (orderWord r (3 + i)) 20 10
    driftInterval := intervalOf (bitsOf (orderWord r (3 + i)) 30 2)
    floor := bitsOf (orderWord r (7 + i)) 0 12
    express := bitsOf (orderWord r (7 + i)) 16 12 }

/-- The settings of a SET_NODE before the clamps. -/
def rawSettings (r : OrderRecord) : NodeSettings :=
  { nodeId := BitVec.ofNat 16 (bitsOf (orderWord r 2) 0 16)
    equipped := BitVec.ofNat 4 (bitsOf (orderWord r 2) 16 4)
    perDegree := ⟨[rawDegree r 0, rawDegree r 1, rawDegree r 2, rawDegree r 3], rfl⟩
    drop := bitsOf (orderWord r 11) 0 12
    period := bitsOf (orderWord r 11) 16 12
    scanner := BitVec.ofNat 4 (bitsOf (orderWord r 12) 0 4)
    attnEnable := bitsOf (orderWord r 12) 8 1 == 1 }

/-- The clamps of R72 on a degree's settings: H is held at or above the clamped B + 10. -/
def clampDegree (x : DegreeSettings) : DegreeSettings :=
  let b := clampTo 10 300 x.budget
  { x with
    budget := b
    limit := clampTo (b + 10) 600 x.limit
    driftLimit := clampTo 10 500 x.driftLimit
    floor := min attMax x.floor
    express := min attMax x.express }

/-- The clamps of R72. -/
def clampSettings (n : NodeSettings) : NodeSettings :=
  { n with
    perDegree := n.perDegree.mapIdx fun _ x => clampDegree x
    drop := min attMax n.drop
    period := clampTo 100 2000 n.period }

/-- The clamp bits of degree d's settings (section 12.2); `i` is d - 1. -/
def degreeClamps (n : NodeSettings) (i : Nat) : List Field :=
  let x := n.perDegree.get i
  let y := clampDegree x
  [⟨flag (x.budget != y.budget), i, 1⟩, ⟨flag (x.limit != y.limit), i + 4, 1⟩,
   ⟨flag (x.driftLimit != y.driftLimit), i + 8, 1⟩, ⟨flag (x.floor != y.floor), i + 12, 1⟩,
   ⟨flag (x.express != y.express), i + 16, 1⟩]

/-- Which settings a SET_NODE clamped (section 12.2). -/
def settingsClamps (n : NodeSettings) : Word :=
  let m := clampSettings n
  packWord (degreeClamps n 0 ++ degreeClamps n 1 ++ degreeClamps n 2 ++ degreeClamps n 3 ++
    [⟨flag (n.drop != m.drop), 20, 1⟩, ⟨flag (n.period != m.period), 21, 1⟩])

end Sys2Proof.Machine
end

