-- ==== Sys2Proof/Machine/Access.lean ====
section
/-! DEFINITION. The one place where each table of State is read and written: grid entries, snapshot entries, settings,
participations, jobs, gates, links. -/

namespace Sys2Proof.Machine

/-- The time base. -/
def State.now (s : State) : Time := s.clock.ms

/-- Index of the grid entry and cell (e, s). -/
def gridIndex (e slot : Nat) : Nat := e * 96 + slot

/-- Grid entry (e, s) (R40). -/
def State.grid (s : State) (e slot : Nat) : GridEntry := s.cg.entries.get (gridIndex e slot)

/-- Grid entry (e, s) replaced. -/
def State.setGrid (s : State) (e slot : Nat) (g : GridEntry) : State :=
  { s with cg.entries := s.cg.entries.set (gridIndex e slot) g }

/-- The settlement of cell (e, s). -/
def State.settlement (s : State) (e slot : Nat) : Settlement := s.cg.settlements.get (gridIndex e slot)

/-- The settlement of cell (e, s) replaced. -/
def State.setSettlement (s : State) (e slot : Nat) (x : Settlement) : State :=
  { s with cg.settlements := s.cg.settlements.set (gridIndex e slot) x }

/-- Index of snapshot entry (d, dir, s): by degree, then IN before OUT, then slot (section 2.1). -/
def snapIndex (d : Nat) (dir : Dir) (slot : Nat) : Nat := (d - 1) * 192 + dir.code * 96 + slot

/-- Snapshot entry (d, dir, s). -/
def State.snap (s : State) (d : Nat) (dir : Dir) (slot : Nat) : SnapEntry := s.msu.entries.get (snapIndex d dir slot)

/-- Snapshot entry (d, dir, s) replaced. -/
def State.setSnap (s : State) (d : Nat) (dir : Dir) (slot : Nat) (x : SnapEntry) : State :=
  { s with msu.entries := s.msu.entries.set (snapIndex d dir slot) x }

/-- The last complete sweep of degree d (R25). -/
def State.sweep (s : State) (d : Nat) : Option (BitVec 16) := s.msu.sweeps.get (d - 1)

/-- Bit d - 1 of an equipped mask: line degree d is present (section 12.2). -/
def maskHas (mask : BitVec 4) (d : Nat) : Bool := 1 ≤ d && d ≤ 4 && mask.toNat / 2 ^ (d - 1) % 2 == 1

/-- Line degree d is equipped (R71). -/
def State.isEquipped (s : State) (d : Nat) : Bool := maskHas s.cfg.node.equipped d

/-- The settings of line degree d. -/
def State.degree (s : State) (d : Nat) : DegreeSettings := s.cfg.node.perDegree.get (d - 1)

/-- The sweep period P in force. -/
def State.period (s : State) : Nat := s.cfg.node.period

/-- Participation entry p, where it is live (R76). -/
def State.entry (s : State) (p : Nat) : Option Participation := s.pa.entries.get p

/-- Participation entry p replaced. -/
def State.setEntry (s : State) (p : Nat) (x : Option Participation) : State :=
  { s with pa.entries := s.pa.entries.set p x }

/-- Job record j, where it is live (R139). -/
def State.job (s : State) (j : Nat) : Option Job := s.jobs.get j

/-- Job record j replaced. -/
def State.setJob (s : State) (j : Nat) (x : Option Job) : State := { s with jobs := s.jobs.set j x }

/-- Index of gate (d, dir). -/
def gateIndex (d : Nat) (dir : Dir) : Nat := 2 * (d - 1) + dir.code

/-- Gate (d, dir): free, or how it is held (R102). -/
def State.gate (s : State) (d : Nat) (dir : Dir) : Option GateHold := s.gates.get (gateIndex d dir)

/-- Gate (d, dir) replaced. -/
def State.setGate (s : State) (d : Nat) (dir : Dir) (x : Option GateHold) : State :=
  { s with gates := s.gates.set (gateIndex d dir) x }

/-- The link record of degree d (R162). -/
def State.link (s : State) (d : Nat) : Link := s.slc.links.get (d - 1)

/-- The link record of degree d replaced. -/
def State.setLink (s : State) (d : Nat) (x : Link) : State := { s with slc.links := s.slc.links.set (d - 1) x }

/-- The intake of degree d runs (R55). -/
def State.inIntake (s : State) (d : Nat) : Bool := d != 0 && s.cg.intakes.get (d - 1)

/-- The watch timer of degree d (R49). -/
def State.watch (s : State) (d : Nat) : Option Timer := s.cg.watches.get (d - 1)

/-- The watch timer of degree d replaced. -/
def State.setWatch (s : State) (d : Nat) (x : Option Timer) : State :=
  { s with cg.watches := s.cg.watches.set (d - 1) x }

/-- A cell is governed when it is an L cell or a cell of an equipped line degree (R5). -/
def State.governed (s : State) (e : Nat) : Bool := e == 0 || s.isEquipped e

/-- The number of live participation entries, closing ones included (R76, R180). -/
def State.liveEntries (s : State) : Nat := (s.pa.entries.cells.filter Option.isSome).length

/-- The number of live job records, in any phase (R76). -/
def State.liveJobs (s : State) : Nat := (s.jobs.cells.filter Option.isSome).length

/-- A head slot is free: fewer than 8 head jobs and fewer than 32 participations are live (R8). -/
def State.headSlotFree (s : State) : Bool := s.liveJobs < Config.jobs && s.liveEntries < Config.entries

/-- The FREE line cells that beats which wait for the check read would light (R6): R12 gives them to local jobs at the grant,
so until the check read's answer no other takes them. -/
def BusInterposer.promised (b : BusInterposer) : List (Nat × Nat) :=
  match b.port with
  | .checkRead f =>
    f.beats.filterMap fun x =>
      if x.out.isSome || x.checked then none
      else
        match regionOf b.winsel x.addr with
        | .cell e slot => some (e, slot)
        | .monitor _ _ _ => none
        | .sweepHeader _ => none
        | .producerWord => none
        | .consumerWord => none
        | .ordinary => none
        | .outside => none
  | .idle => []
  | .write _ => []
  | .read _ => []
  | .part _ => []
  | .ending _ => []

/-- The participations that those local jobs take, as far as there are job numbers for them (R8, R12). -/
def State.promisedEntries (s : State) : Nat := min s.shelf.bus.promised.length (Config.jobs - s.liveJobs)

/-- The lowest free participation index (R76). -/
def State.freeEntry (s : State) : Nat := s.pa.entries.cells.findIdx Option.isNone

/-- The lowest free job number (R64). -/
def State.freeJob (s : State) : Nat := s.jobs.cells.findIdx Option.isNone

/-- The live job that a key names (R139). -/
def State.jobOfKey (s : State) (k : JobKey) : Option Job :=
  match s.job k.job.toNat with
  | some j => if j.key = k then some j else none
  | none => none

/-- The index of the live entry, of one of these roles, that holds a key. -/
def State.entryOfKey (s : State) (k : JobKey) (ofRole : Role → Bool) : Option Nat :=
  s.pa.entries.cells.findIdx? fun e => e.any fun x => ofRole x.role && x.key == k

/-- Downstream nodes' roles: the entries that path frames other than a head's match (R82). -/
def Role.isTransitOrTail : Role → Bool
  | .head => false
  | .transit => true
  | .tail => true
  | .localRole => false

/-- The degree and direction a participation watches, and whose gate it uses: IN of the ingress for a tail, OUT of the
egress for every other role (R78, R102). -/
def Participation.watched (x : Participation) : Nat × Dir :=
  match x.role with
  | .tail => (x.ingress, .inward)
  | .head => (x.egress, .outward)
  | .transit => (x.egress, .outward)
  | .localRole => (x.egress, .outward)

/-- The degree and direction of a participation's continuity (R32, R78). -/
def Participation.continuity (x : Participation) : Nat × Dir :=
  match x.role with
  | .tail => (x.ingress, .inward)
  | .transit => (x.ingress, .inward)
  | .head => (x.egress, .outward)
  | .localRole => (x.egress, .outward)

/-- The number of a job: that of its key (R64). -/
def Job.number (j : Job) : Nat := j.key.job.toNat

/-- The hop count of a job: a LOCAL job's one hop is this node (R124, R158). -/
def Job.hopCount (j : Job) : Nat := if j.kind = .path then j.path.length else 1

/-- A job that sends and takes frames. -/
def Job.isPath (j : Job) : Bool := j.kind == .path

end Sys2Proof.Machine
end

