-- ==== Sys2Proof/Machine/Flags.lean ====
section
/-! DEFINITION. What the device judges from its state without changing it: the effective class of a snapshot entry, the
later-than test, settledness, depth and count classes, the flags of the drift watch, ATTN. -/

namespace Sys2Proof.Machine

/-- Sweep n is later than sweep m when (n - m) mod 65536 lies in 1..32767 (section 2.2). -/
def laterSweep (n m : BitVec 16) : Bool := 1 ≤ (n - m).toNat && (n - m).toNat ≤ 32767

/-- The effective class of a snapshot entry at time `now` with sweep period `period` (R28). -/
def effectiveClass (now : Time) (period : Nat) (x : SnapEntry) : LevelClass :=
  match x.snoop with
  | none => .stale
  | some t => if x.expired || 3 * period < (now - t).toNat then .stale else x.cls

/-- A current reading: the effective class, the level when it is FINITE, and the pilot (R30). -/
structure CurrentReading where
  cls : LevelClass
  level : Option Int
  pilot : Nat
deriving DecidableEq, Repr

/-- What MSU answers for one entry at once (R28, R30). -/
def State.reading (s : State) (d : Nat) (dir : Dir) (slot : Nat) : CurrentReading :=
  let x := s.snap d dir slot
  let c := effectiveClass s.now s.period x
  ⟨c, if c = .finite then x.level else none, x.pilot⟩

/-- The commit level a slot takes from (d, OUT, slot): the level when FINITE, else unknown; L takes unknown (R44). -/
def State.freshCommitLevel (s : State) (e slot : Nat) : Option Int :=
  if e = 0 then none else (s.reading e .outward slot).level

/-- A degree is unsettled while an entry of it has DRIFT or LOSS set, or while its intake runs (R51). -/
def State.isSettled (s : State) (d : Nat) : Bool :=
  !s.inIntake d && (List.range Config.slots).all fun k => !(s.grid d k).drift && !(s.grid d k).loss

/-- The device is adopting (R182). -/
def State.isAdopting (s : State) : Bool := s.mode == .adopting

/-- ATTN is driven low while unread reports wait and ATTN is enabled; a reset releases it (R177). -/
def State.attnLow (s : State) : Bool :=
  s.mode != .inReset && s.cfg.node.attnEnable && s.shelf.rw.producer != s.shelf.rw.consumer

/-- The number of unread records in the ring (R172). -/
def ReportWriter.unread (r : ReportWriter) : Nat := (r.producer + ringSlots - r.consumer) % ringSlots

/-- The ring has room for a record (R175). -/
def ReportWriter.hasRoom (r : ReportWriter) : Bool := (r.producer + 1) % ringSlots != r.consumer

/-- A consumer value lies on the circular range from the consumer copy to the producer index (R176). -/
def ReportWriter.takesConsumer (r : ReportWriter) (v : Nat) : Bool :=
  v < ringSlots && (v + ringSlots - r.consumer) % ringSlots ≤ (r.producer + ringSlots - r.consumer) % ringSlots

/-- The count class of a reference count (R70). -/
def countClass (n : Nat) : Nat := if n ≤ 7 then 0 else if n ≤ 23 then 1 else if n ≤ 55 then 2 else 3

/-- The depth class of a depth in hdB (R70). -/
def depthClassOf (depth : Int) : Nat :=
  if 2000 ≤ depth then 0 else if 1500 ≤ depth then 1 else if 1000 ≤ depth then 2 else if 700 ≤ depth then 3
  else if 400 ≤ depth then 4 else if 200 ≤ depth then 5 else if 100 ≤ depth then 6 else 7

/-- The depth class of a head attenuation above a target; BLOCK is class 0 (R70). -/
def depthClass (a : Atten) (target : Nat) : Nat :=
  match a with
  | .block => 0
  | .hdb n => depthClassOf ((n : Int) - target)

/-- What one watch expiry, or a CLEAR_WATCH, does to an IN_SERVICE entry: the entry after, and the kind it reports. -/
structure DriftVerdict where
  entry : GridEntry
  report : Option EventKind
deriving DecidableEq, Repr

/-- The drift watch's judgement of an IN_SERVICE entry (R50). A flag that a row does not name keeps its value. -/
def driftVerdict (limit : Nat) (r : CurrentReading) (g : GridEntry) : DriftVerdict :=
  let cleared : DriftVerdict :=
    ⟨{ g with drift := false, loss := false }, if g.drift || g.loss then some .driftClear else none⟩
  match r.cls, r.level with
  | .stale, _ => ⟨g, none⟩
  | .dark, _ => ⟨{ g with loss := true }, if g.loss then none else some .channelDark⟩
  | .over, _ => ⟨{ g with drift := true }, if g.drift then none else some .drift⟩
  | .finite, none => ⟨g, none⟩
  | .finite, some l =>
    match g.commitLevel with
    | none => ⟨{ cleared.entry with commitLevel := some l }, cleared.report⟩
    | some c =>
      if limit < (l - c).natAbs then ⟨{ g with drift := true }, if g.drift then none else some .drift⟩
      else cleared

end Sys2Proof.Machine
end

