-- ==== Sys2Proof/Machine/Records.lean ====
section
/-! DEFINITION. The records the device writes: the eight words of an event (section 12.2, R178), and the contents of the
node and job status records (R160, R180). A status content holds 0 where the update sequence number goes. -/

namespace Sys2Proof.Machine

/-! ## Event records -/

/-- A field that is 0 where its value is absent. -/
def optField (o : Option Nat) (lo len : Nat) : Field := ⟨o.getD 0, lo, len⟩

/-- The eight words of an event record (section 12.2). -/
def eventWords (e : Event) : List Word :=
  [packWord [⟨e.kind.code, 0, 8⟩, ⟨e.cause, 8, 8⟩, ⟨flag e.key.isSome, 16, 1⟩, ⟨flag e.egress.isSome, 17, 1⟩,
     ⟨flag e.slot.isSome, 18, 1⟩],
   e.time,
   packWord [⟨(e.key.map JobKey.bits).getD 0, 0, 24⟩],
   packWord [optField e.egress 0 3, optField e.slot 8 7],
   e.tag, e.value1, e.value2, 0]

/-- The tag a report about a job carries: that of the live job this node leads under the key, else 0 (R59, R178). -/
def State.tagOf (s : State) (k : JobKey) : Word := ((s.jobOfKey k).map Job.tag).getD 0

/-- An event of this moment with nothing but its kind. -/
def State.event (s : State) (k : EventKind) : Event := ⟨k, s.now, none, none, none, 0, 0, 0, 0⟩

/-- An event of this moment about a slot of a degree. -/
def State.slotEvent (s : State) (k : EventKind) (e slot : Nat) : Event :=
  { s.event k with egress := some e, slot := some slot }

/-- An event of this moment about a job, with its key and its tag. -/
def State.jobEvent (s : State) (k : EventKind) (key : JobKey) (e slot : Nat) : Event :=
  { s.slotEvent k e slot with key := some key, tag := s.tagOf key }

/-! ## Node status record (R180) -/

/-- Words 5..12: the holder of gate i, or 0 when free. -/
def gateWord (g : Option GateHold) : Word :=
  match g with
  | none => 0
  | some h => packWord [⟨h.key.bits, 0, 24⟩, ⟨1, 31, 1⟩]

/-- The contents of the node status record, its sequence fields 0. Of the intake flags, degree 1's takes the lowest bit (section
12.2; log entry 28). -/
def State.nodeContent (s : State) : List Word :=
  [packWord ([⟨flag (s.mode == .running), 16, 1⟩] ++
      (List.range 4).map fun i => ⟨flag (s.inIntake (i + 1)), 17 + i, 1⟩),
   packWord [⟨s.cfg.node.nodeId.toNat, 0, 16⟩, ⟨s.cfg.node.equipped.toNat, 16, 4⟩],
   packWord (((List.range 4).map fun i => ⟨(s.link (i + 1)).state.code, 2 * i, 2⟩) ++
      [⟨s.liveEntries, 8, 6⟩, ⟨s.liveJobs, 16, 4⟩]),
   packWord [⟨(s.link 1).badFrames, 0, 16⟩, ⟨(s.link 2).badFrames, 16, 16⟩],
   packWord [⟨(s.link 3).badFrames, 0, 16⟩, ⟨(s.link 4).badFrames, 16, 16⟩]]
    ++ s.gates.cells.map gateWord ++ [0, 0, 0]

/-! ## Job status records (R160) -/

/-- The twelve bits of a hop in the hop area: D saturates at 127. -/
def hopArea (h : HopElem) : Nat := h.devResult.code + h.contResult.code * 4 + min 127 h.dev * 32

/-- The hop area as one number of 192 bits, hop h from bit 12h. -/
def hopAreaBits (hs : List HopElem) : BitVec 192 :=
  (hs.take 16).foldl (fun b h => b ||| BitVec.ofNat 192 (hopArea h * 2 ^ (12 * h.hop))) 0

/-- How a job ended, as its last update shows it (R159). -/
structure JobEnding where
  outcome : JobOutcome
  left : GridState
deriving DecidableEq, Repr

/-- The element of the limiting hop: T and K of it are shown (R160). -/
def Job.limitingHop (j : Job) : Option HopElem := j.hops.find? fun h => h.hop == j.limiting

/-- The contents of a job status record, its sequence fields 0. A figure that is absent shows 0. Of the three flags of word 0,
closing takes the lowest bit, then suspend-pending, then late-abort, as section 12.2 lists them; of a cause or a hop index too
wide for its field the low bits show (log entry 28). -/
def Job.content (j : Job) (ending : Option JobEnding) : List Word :=
  let area := hopAreaBits j.hops
  [packWord [⟨j.number, 16, 3⟩, ⟨j.key.gen.toNat, 19, 4⟩, ⟨j.phase.code, 23, 3⟩, ⟨j.kind.code, 26, 2⟩,
     ⟨flag j.closing, 28, 1⟩, ⟨flag j.suspendPending, 29, 1⟩, ⟨flag j.lateAbort, 30, 1⟩],
   j.tag,
   packWord [⟨j.key.node.toNat, 0, 16⟩, ⟨j.egress, 16, 3⟩, ⟨j.slot, 19, 7⟩, ⟨j.hopCount, 26, 5⟩],
   packWord [⟨j.att.code, 0, 12⟩, ⟨j.target, 12, 12⟩, ⟨j.stepNo, 24, 8⟩],
   packWord [optField j.startAtt 0 12, ⟨j.steps, 12, 8⟩, optField j.lastDelta 20 9],
   packWord [optField j.ceiling 0 9, optField (j.plan.map Plan.delta) 9 9,
     optField (j.plan.map fun p => p.outcome.code) 18 2, ⟨j.backoffs, 20, 2⟩, ⟨j.unmeasuredRun, 22, 2⟩,
     ⟨j.noRoomRun, 24, 2⟩, ⟨j.silentRun, 26, 2⟩],
   packWord [⟨j.busyRun, 0, 6⟩, ⟨j.stack.length, 6, 4⟩, optField (j.stack.head?.map Atten.code) 10 12,
     ⟨j.limiting, 22, 4⟩],
   packWord [optField (j.limitingHop.map HopElem.tnext) 0 12, optField (j.limitingHop.map HopElem.factor) 12 12],
   packWord [optField (ending.map fun e => e.outcome.code) 0 3, ⟨j.cause.code, 3, 5⟩, ⟨j.causeHop, 8, 4⟩,
     ⟨j.remoteCause.code, 12, 5⟩, ⟨j.gracefulCause.code, 17, 5⟩, optField (ending.map fun e => e.left.code) 22 3],
   area.extractLsb' 0 32, area.extractLsb' 32 32, area.extractLsb' 64 32, area.extractLsb' 96 32,
   area.extractLsb' 128 32, area.extractLsb' 160 32,
   0]

end Sys2Proof.Machine
end

