-- ==== Sys2Proof/WellFormed.lean ====
section
/-! DEFINITION. When a command's operands lie in the ranges that its rule gives them. A command outside them is no
event of the block, and every meaning refuses it by the name `illFormed`. -/

namespace Sys2Proof

/-- A line degree, and the supervisory link of that degree, is 1..4. -/
def isLineDegree (d : Nat) : Bool := 1 ≤ d && d ≤ Config.degrees

/-- A slot is 0..95. -/
def isSlot (s : Nat) : Bool := s < Config.slots

/-- A burst holds 1..16 beats (R1). -/
def Burst.wellFormed (b : Burst) : Bool := 1 ≤ b.length && b.length ≤ 16

/-- A path count lies in 2..16 and a display count in 0..16 (R164). -/
def ClaimBody.wellFormed (c : ClaimBody) : Bool :=
  2 ≤ c.path.length && c.path.length ≤ 16 && c.display.length ≤ 16

/-- The half of an order record that one read fetches is 16 words (R59). -/
def halfOrder (ws : List Word) : Bool := ws.length == 16

/-- The operand ranges of every command. -/
def Instr.wellFormed : Instr → Bool
  | .upstreamTransaction t => t.burst.wellFormed
  | .forwardedWriteGrant => true
  | .checkReadAnswer a => (a.getD []).length ≤ 16
  | .forwardedReadGrant => true
  | .forwardedTransactionComplete _ data => data.length ≤ 16
  | .partAccessGrant => true
  | .readHoldExpiry r => r < Config.holdRecords
  | .powerOnReset => true
  | .resetnAsserted => true
  | .resetEnd _ => true
  | .producerWordReadAnswer _ => true
  | .adoptionCellReadAnswer _ => true
  | .adoptionSettleDeadline e s => e ≤ Config.degrees && isSlot s
  | .entryExpired d _ s => isLineDegree d && isSlot s
  | .measurementDeadline p => p < Config.entries
  | .driftWatchExpiry d => isLineDegree d
  | .intakeCellReadAnswer _ => true
  | .intakeSettleDeadline d s => isLineDegree d && isSlot s
  | .orderLowerReadAnswer a => (a.map halfOrder).getD true
  | .orderUpperReadError => true
  | .badKind u => halfOrder u
  | .turnUp u => halfOrder u
  | .suspend u => halfOrder u
  | .resume u => halfOrder u
  | .abort u => halfOrder u
  | .release u => halfOrder u
  | .clearWatch u => halfOrder u
  | .loadProfile u => halfOrder u
  | .loadTable u => halfOrder u
  | .setNode u => halfOrder u
  | .badFrame d _ => isLineDegree d
  | .alive d _ => isLineDegree d
  | .claim d _ _ b => isLineDegree d && b.wellFormed
  | .confirm d _ _ h => isLineDegree d && h.length ≤ 16
  | .refuse d _ _ _ _ => isLineDegree d
  | .intent d _ _ _ _ => isLineDegree d
  | .ready d _ _ => isLineDegree d
  | .busy d _ _ _ => isLineDegree d
  | .measure d _ _ _ _ => isLineDegree d
  | .report d _ _ h => isLineDegree d && h.length ≤ 16
  | .stepEnd d _ _ _ => isLineDegree d
  | .commit d _ _ => isLineDegree d
  | .committed d _ _ => isLineDegree d
  | .abortFrame d _ _ _ => isLineDegree d
  | .alarm d _ _ _ _ => isLineDegree d
  | .keep d _ _ => isLineDegree d
  | .livenessExpiry d => isLineDegree d
  | .aliveTimerExpiry d => isLineDegree d
  | .freshPeriodEnd => true
  | .frameSent d => isLineDegree d
  | .orphanTimerExpiry p => p < Config.entries
  | .keepTimerExpiry j => j < Config.jobs
  | .commitReturnExpiry => true
  | .gateHoldLimitExpiry d _ => isLineDegree d
  | .confirmWindowExpiry j => j < Config.jobs
  | .readyBusyWindowExpiry j => j < Config.jobs
  | .reportWindowExpiry j => j < Config.jobs
  | .committedWindowExpiry j => j < Config.jobs
  | .settleTimerExpiry j => j < Config.jobs
  | .retryDelayEnd j => j < Config.jobs
  | .remeasureWaitEnd j => j < Config.jobs
  | .unwindTimerExpiry j => j < Config.jobs
  | .blockWriteAnswer _ => true
  | .stepWriteAnswer _ => true
  | .routeWriteAnswer _ => true
  | .commitWriteAnswer _ => true
  | .restoreWriteAnswer _ => true
  | .reportRecordWriteAnswer _ => true
  | .reportHeaderWriteAnswer _ => true
  | .statusWriteAnswer _ => true

end Sys2Proof
end

