-- ==== Sys2Proof/Machine/Ops.lean ====
section
/-! DEFINITION. The operations every meaning is made of: producing part accesses under R16 and R17, the arbiter's choice
(R19, R20), submitting events and publishing them (R173 to R175), status updates (R179), gates, frames handed to links,
grid transitions, and the freeing and closing of participations. -/

namespace Sys2Proof.Machine

/-! ## Part accesses (R2, R16, R17, R18) -/

/-- A pending write to this offset. -/
def PartReq.writesTo (r : PartReq) (o : Nat) : Bool := r.data.isSome && r.offset == o

/-- Writes whose requester acts on an answer: it hears that of a write which replaces its own (R16, R22). An answer to a header
or status write has no effect (R22). -/
def Purpose.awaitsAnswer : Purpose → Bool
  | .commit _ => true
  | .restore _ => true
  | .closing _ => true
  | .step _ => true
  | .route _ _ => true
  | .record => true
  | .header => false
  | .status => false
  | .orderLower => false
  | .orderUpper => false
  | .producerWord => false
  | .adoptCell _ _ => false
  | .intakeCell _ _ _ => false

/-- What a write hands on of those that wait for its answer, when another write replaces it (R16). -/
def PartReq.handsOn (r : PartReq) : List Purpose := r.replaced ++ [r.purpose].filter Purpose.awaitsAnswer

/-- A part access becomes pending at the back of its class; a write replaces the write pending to its word, and its answer
is returned to the requesters of both (R16). -/
def BusInterposer.enqueue (b : BusInterposer) (r : PartReq) : BusInterposer :=
  let gone := b.parts.filter fun q => r.data.isSome && q.writesTo r.offset
  { b with
    parts := b.parts.filter (fun q => !(r.data.isSome && q.writesTo r.offset))
      ++ [{ r with replaced := r.replaced ++ gone.flatMap PartReq.handsOn }] }

/-- A deferred value joins a record's set, replacing the one its word had; ascending (R17). -/
def insertDeferred (o : Nat) (w : Word) : List (Nat × Word) → List (Nat × Word)
  | [] => [(o, w)]
  | (p, x) :: rest =>
    if o < p then (o, w) :: (p, x) :: rest
    else if o = p then (o, w) :: rest
    else (p, x) :: insertDeferred o w rest

/-- The record whose open hold defers a write to this offset (R17). -/
def BusInterposer.openHold (b : BusInterposer) (o : Nat) : Option Nat :=
  match holdOf o with
  | some r => if (b.holds.get r).opened.isSome then some r else none
  | none => none

/-- A requester produces a part access: a write to a word of a record whose hold is open is deferred, any other access
becomes pending (R16, R17). -/
def BusInterposer.produce (b : BusInterposer) (r : PartReq) : BusInterposer :=
  match r.data, b.openHold r.offset with
  | some w, some h =>
    { b with holds := b.holds.set h { b.holds.get h with deferred := insertDeferred r.offset w (b.holds.get h).deferred } }
  | _, _ => b.enqueue r

/-- What a write to a word of hold record r is for. -/
def holdPurpose (r : Nat) : Purpose := if r ≤ 8 then .status else .header

/-- A read hold closes: each deferred value becomes a pending class (d) write, in ascending word order (R18). -/
def BusInterposer.closeHold (b : BusInterposer) (r : Nat) : BusInterposer :=
  (b.holds.get r).deferred.foldl (fun b x => b.enqueue ⟨.d, x.1, 1, some x.2, holdPurpose r, []⟩)
    { b with holds := b.holds.set r ⟨none, []⟩ }

/-! ## Forwarded traffic (R1, R16) -/

/-- A forwarded transaction holds the port. -/
def Port.isForwarded : Port → Bool
  | .idle => false
  | .checkRead _ => true
  | .write _ => true
  | .read _ => true
  | .part _ => false
  | .ending _ => false

/-- The offsets of the words of a transaction that have a pending part write (R16). -/
def BusInterposer.waitsOf (b : BusInterposer) (t : UpTxn) : List Nat :=
  (beatAddrs t).filterMap fun a =>
    match windowOffset b.winsel a with
    | some o => if b.parts.any fun r => r.writesTo o then some o else none
    | none => none

/-- The head of class (b) has just reached it: it waits for the part writes pending to its words at this moment (R16). -/
def BusInterposer.newHead (b : BusInterposer) : BusInterposer :=
  match b.accepted with
  | [] => { b with headWaits := [] }
  | t :: _ => { b with headWaits := if b.port.isForwarded then [] else b.waitsOf t }

/-- The transactions BI holds accepted and not complete (R1). -/
def BusInterposer.held (b : BusInterposer) : Nat := b.accepted.length + (if b.port.isForwarded then 1 else 0)

/-- Waiting masters' transactions are accepted, oldest first, while BI holds fewer than 4 (R1). -/
def BusInterposer.admitOffers (b : BusInterposer) : BusInterposer :=
  let room := acceptLimit - b.held
  { b with accepted := b.accepted ++ b.offers.take room, offers := b.offers.drop room }

/-! ## The arbiter (R19, R20) -/

/-- What the arbiter grants. -/
inductive Grant where
  | forwarded (t : UpTxn)
  | part (r : PartReq)
deriving DecidableEq, Repr

/-- The oldest pending request of a class. -/
def BusInterposer.oldest (b : BusInterposer) (cls : ReqClass) : Option PartReq := b.parts.find? fun r => r.cls == cls

/-- The oldest pending request of classes (c) and (d) together (R20). -/
def BusInterposer.oldestCD (b : BusInterposer) : Option PartReq := b.parts.find? fun r => r.cls != .a

/-- The head of class (b), where it is eligible (R16, R19). -/
def BusInterposer.eligibleHead (b : BusInterposer) : Option UpTxn := if b.headWaits = [] then b.accepted.head? else none

/-- The request of classes (c) and (d) that a grant to one of them goes to: the oldest of both at a count of 4, else one of (c)
before one of (d) (R19, R20). -/
def BusInterposer.turnCD (b : BusInterposer) (r : PartReq) : PartReq :=
  if bGrantLimit ≤ b.bGrants then r else (b.oldest .c).getD r

/-- The arbiter's choice when the port is free: (a) first; then, when the count stands at 4 and a (c) or (d) request
waits, the oldest of those; then (b), then (c), then (d) (R19, R20). -/
def BusInterposer.choice (b : BusInterposer) : Option Grant :=
  if b.port != .idle then none
  else
    match b.oldest .a, b.oldestCD, b.eligibleHead with
    | some r, _, _ => some (.part r)
    | none, some r, some t => if bGrantLimit ≤ b.bGrants then some (.part r) else some (.forwarded t)
    | none, none, some t => some (.forwarded t)
    | none, some r, none => some (.part (b.turnCD r))
    | none, none, none => none

/-- The count of R20 after a class (b) grant. -/
def BusInterposer.countAfterB (b : BusInterposer) : Nat := if b.oldestCD.isSome then b.bGrants + 1 else 0

/-- The count of R20 after a part grant. -/
def BusInterposer.countAfterPart (b : BusInterposer) (r : PartReq) : Nat := if r.cls = .a then b.bGrants else 0

/-! ## Reports (R173 to R175) -/

/-- RW produces a write of one of its words. -/
def Shelf.writeWord (sh : Shelf) (o : Nat) (w : Word) (p : Purpose) : Shelf :=
  { sh with bus := sh.bus.produce ⟨.d, o, 1, some w, p, []⟩ }

/-- A record is lost: the drop count rises by 1, saturating, and its word is written (R173 to R175). -/
def Shelf.dropOne (sh : Shelf) : Shelf :=
  let n := min dropLimit (sh.rw.drops + 1)
  { sh with rw.drops := n }.writeWord dropOffset (BitVec.ofNat 32 n) .header

/-- RW takes an event as the record in flight and produces its eight writes, in ascending word order (R174). -/
def Shelf.startRecord (sh : Shelf) (e : Event) : Shelf :=
  let ws := eventWords e
  (List.range 8).foldl
    (fun sh i => sh.writeWord (reportOffset sh.rw.producer + 4 * i) (ws.getD i 0) .record)
    { sh with rw.flight := some ⟨e, 8, false⟩ }

/-- RW takes events of a queue until one is in flight or none remains: an event that finds the ring full is lost (R174,
R175). -/
def Shelf.take (sh : Shelf) : List Event → Shelf
  | [] => { sh with rw.queue := [] }
  | e :: rest =>
    if sh.rw.hasRoom then { sh with rw.queue := rest }.startRecord e else sh.dropOne.take rest

/-- RW takes the next event when no record is in flight (R174). -/
def Shelf.takeNext (sh : Shelf) : Shelf := if sh.rw.flight.isSome then sh else sh.take sh.rw.queue

/-- A block submits an event: it joins the publication queue, or is lost when the queue holds 64 (R173). -/
def Shelf.submit (sh : Shelf) (e : Event) : Shelf :=
  if sh.rw.queue.length < queueLimit then { sh with rw.queue := sh.rw.queue ++ [e] }.takeNext else sh.dropOne

/-- One of the eight writes of the record in flight is answered; at the last answer the record is published or lost, and
RW takes the next event (R174). -/
def Shelf.recordAnswer (sh : Shelf) (ok : Bool) : Shelf :=
  match sh.rw.flight with
  | none => sh
  | some f =>
    let failed := f.failed || !ok
    if 1 < f.left then { sh with rw.flight := some { f with left := f.left - 1, failed := failed } }
    else
      let sh := { sh with rw.flight := none }
      let sh :=
        if failed then sh.dropOne
        else
          let p := (sh.rw.producer + 1) % ringSlots
          { sh with rw.producer := p }.writeWord producerOffset (BitVec.ofNat 32 p) .header
      sh.takeNext

/-! ## Status updates (R179) -/

/-- A status record's words with its sequence number in the first and the last (section 12.2). -/
def withSequence (seq : BitVec 16) (content : List Word) : List Word :=
  (content.set 0 (content.getD 0 0 ||| seq.setWidth 32)).set 15 (seq.setWidth 32)

/-- An update writes word i: the first and last always, another when it differs from what RW last wrote to it since the
reset (R179). -/
def StatusBook.writes (b : StatusBook) (ws : List Word) (i : Nat) : Bool :=
  i == 0 || i == 15 ||
    match b.last with
    | none => true
    | some l => l.getD i 0 != ws.getD i 0

/-- RW writes a status record: record 0 is the node's, record j + 1 that of job j (R179). -/
def Shelf.statusUpdate (sh : Shelf) (r : Nat) (content : List Word) : Shelf :=
  let book := sh.rw.books.get r
  let seq := book.seq + 1
  let ws := withSequence seq content
  { sh with
    rw.books := sh.rw.books.set r ⟨seq, some ws⟩
    bus := (List.range 16).foldl
      (fun b i => if book.writes ws i then b.produce ⟨.d, holdBase r + 4 * i, 1, some (ws.getD i 0), .status, []⟩ else b)
      sh.bus }

/-! ## The same, on the device -/

/-- A block submits an event (R173). -/
def State.report (s : State) (e : Event) : State := { s with shelf := s.shelf.submit e }

/-- Events of one block, in the order it gives them (R173). -/
def State.reportAll (s : State) (es : List Event) : State := { s with shelf := es.foldl Shelf.submit s.shelf }

/-- A block produces a part access (R2). -/
def State.produce (s : State) (r : PartReq) : State := { s with shelf.bus := s.shelf.bus.produce r }

/-- A cell write of a class (R2). -/
def State.writeCell (s : State) (cls : ReqClass) (e slot : Nat) (w : Word) (p : Purpose) : State :=
  s.produce ⟨cls, cellOffset e slot, 1, some w, p, []⟩

/-- The event being taken calls for an update of job status record j (R160). -/
def State.touch (s : State) (j : Nat) : State := { s with marks.touched := j :: s.marks.touched }

/-- The update of job status record j that an event calls for: its final words, or those of the live job (R160, R181). -/
def State.jobUpdate (s : State) (sh : Shelf) (j : Nat) : Shelf :=
  match s.marks.ended.find? fun x => x.1 == j with
  | some x => sh.statusUpdate (j + 1) x.2
  | none =>
    match s.job j with
    | some job => if s.marks.touched.contains j then sh.statusUpdate (j + 1) (job.content none) else sh
    | none => sh

/-- The status updates of an event, after everything else it does: the node status record where its contents are no longer
those before the event, or those that the event has already shown (R180, R185), then each job status record marked, one
update each (R160). A gate taken afresh by its own holder, or released and taken again for it at one event, leaves the contents
as they were, and makes no update (R180; log entry 28). -/
def State.finish (s before : State) : State :=
  let sh := if s.nodeContent = s.marks.shown.getD before.nodeContent then s.shelf else s.shelf.statusUpdate 0 s.nodeContent
  { s with shelf := (List.range Config.jobs).foldl s.jobUpdate sh, marks := Marks.none }

/-- The outcome of a command. -/
abbrev Result := Host.Outcome State Fault Refusal

/-- An event takes place: its effect, then the status updates it calls for. -/
def occur (s : State) (f : State → State) : Result := .next ((f s).finish s)

/-- A command whose operands lie outside their ranges is no event. -/
def guarded (i : Instr) (r : Result) : Result := if i.wellFormed then r else .refused .illFormed

/-! ## Grid transitions (R42 to R48) -/

/-- An entry is taken: RESERVED under a new owner (R42). -/
def State.reserve (s : State) (e slot p : Nat) : State := s.setGrid e slot ⟨.reserved, some p, none, false, false⟩

/-- An entry enters IN_SERVICE with this commit level, no owner and both flags clear (R44). -/
def State.enterService (s : State) (e slot : Nat) (level : Option Int) : State :=
  s.setGrid e slot ⟨.inService, none, level, false, false⟩

/-- An owned entry enters IN_SERVICE by a commit: the current reading of (egress, OUT, slot), unknown for L (R44). -/
def State.commitGrid (s : State) (e slot : Nat) : State := s.enterService e slot (s.freshCommitLevel e slot)

/-- A RESERVED entry passes to RAMPING; an entry already RAMPING stays there (R43). -/
def State.startRamping (s : State) (e slot : Nat) : State :=
  if (s.grid e slot).state = .reserved then s.setGrid e slot { s.grid e slot with state := .ramping } else s

/-- An entry enters QUARANTINED and CG reports it, with the former owner's key and the state it left (R47). -/
def State.quarantine (s : State) (e slot : Nat) (cause : Cause) (key : Option JobKey) : State :=
  let left := (s.grid e slot).state
  (s.setGrid e slot ⟨.quarantined, none, none, false, false⟩).report
    { s.slotEvent .quarantined e slot with
      key := key
      cause := cause.code
      tag := (key.map s.tagOf).getD 0
      value1 := BitVec.ofNat 32 left.code }

/-! ## Gates (R102 to R104) -/

/-- The gate of entry x is held by another entry than p. -/
def State.gateBusy (s : State) (p : Nat) (x : Participation) : Bool :=
  match s.gate x.watched.1 x.watched.2 with
  | some h => h.holder != p
  | none => false

/-- Entry p takes its gate: the hold limit starts, and the step number and head attenuation are recorded (R103). -/
def State.takeGate (s : State) (p : Nat) (x : Participation) (step : Nat) (a : Atten) : State :=
  s.setGate x.watched.1 x.watched.2 (some ⟨p, x.key, s.now, step, a⟩)

/-- Entry p releases its gate, if it holds it (R103). -/
def State.releaseGate (s : State) (p : Nat) (x : Participation) : State :=
  match s.gate x.watched.1 x.watched.2 with
  | some h => if h.holder = p then s.setGate x.watched.1 x.watched.2 none else s
  | none => s

/-- The hold limit of entry p's gate starts again, if it holds it (R104). -/
def State.restartGate (s : State) (p : Nat) (x : Participation) : State :=
  match s.gate x.watched.1 x.watched.2 with
  | some h => if h.holder = p then s.setGate x.watched.1 x.watched.2 (some { h with since := s.now }) else s
  | none => s

/-! ## Frames handed to links (R80, R104, R169) -/

/-- A frame that PA or RC hands to the link of degree d: it joins the queue of an UP link that holds fewer than 8 frames;
a full queue loses it with TXQ_FULL; a DOWN or DISABLED link loses it without report (R169). -/
def State.send (s : State) (d : Nat) (f : PathFrame) : State :=
  let l := s.link d
  if l.state = .up then
    if l.queue.length < txqLimit then s.setLink d { l with queue := l.queue ++ [.path f] }
    else
      s.report
        { s.event .txqFull with
          egress := some d
          key := some f.key
          tag := s.tagOf f.key
          value1 := packWord [⟨f.body.code, 0, 8⟩, ⟨f.step.toNat, 8, 8⟩] }
  else s

/-- A frame of entry p's job is handed to a link, which restarts the hold limit of the gate it holds (R104). -/
def State.handFrame (s : State) (p : Nat) (x : Participation) (d : Nat) (f : PathFrame) : State :=
  (s.send d f).restartGate p x

/-- A STRAY_FRAME mark (section 12.2). -/
inductive StrayMark where
  | wrongLink
  | noMatch
  | outOfTurn
deriving DecidableEq, Repr

/-- The codes of the marks. -/
def StrayMark.code : StrayMark → Nat
  | .wrongLink => 0
  | .noMatch => 1
  | .outOfTurn => 2

/-- A path frame is discarded and reported STRAY_FRAME (R82). -/
def State.stray (s : State) (d : Nat) (f : PathFrame) (m : StrayMark) : State :=
  s.report
    { s.event .strayFrame with
      key := some f.key
      tag := s.tagOf f.key
      value1 := packWord [⟨f.body.code, 0, 8⟩, ⟨f.step.toNat, 8, 8⟩, ⟨d, 16, 3⟩]
      value2 := BitVec.ofNat 32 m.code }

/-! ## Participations (R31, R70, R76, R79) -/

/-- The reference set of a participation on (d, dir): every FINITE slot but its own, in ascending order (R31). -/
def State.referenceSet (s : State) (d : Nat) (dir : Dir) (own : Nat) : List RefChannel :=
  (List.range Config.slots).filterMap fun k =>
    if k = own then none
    else
      match s.reading d dir k with
      | ⟨.finite, some l, _⟩ => some ⟨k, l⟩
      | _ => none

/-- The row of the sensitivity table for a reference count (R70). -/
def State.tableRow (s : State) (count : Nat) : List Nat :=
  (List.range 8).map fun d => s.cfg.sensitivity.get (countClass count * 8 + d)

/-- A new participation with what it takes at its creation: its reference set, B and H of its watched degree, and its
table row (R31, R70, R73). -/
def State.newEntry (s : State) (x : Participation) : Participation :=
  let refs := s.referenceSet x.watched.1 x.watched.2 x.slot
  { x with
    refs := refs
    budget := (s.degree x.watched.1).budget
    limit := (s.degree x.watched.1).limit
    row := s.tableRow refs.length }

/-- The table value of a participation at a depth class (R70). -/
def Participation.tableValue (x : Participation) (c : Nat) : Nat := x.row.getD c 0

/-- A participation is freed: its gate is released; its measurement, its held REPORT and its timers cease (R79). -/
def State.freeParticipation (s : State) (p : Nat) : State :=
  match s.entry p with
  | none => s
  | some x => (s.releaseGate p x).setEntry p none

/-- A participation becomes closing: its gate is released, its measurement withdrawn, what it held discarded, and its
closing BLOCK write is produced in class (a) (R79). -/
def State.closeParticipation (s : State) (p : Nat) (x : Participation) (w : Word) : State :=
  ((s.releaseGate p x).setEntry p
      (some { x with closing := true, measurement := none, ownRecord := none, heldReport := none })).writeCell
    .a x.egress x.slot w (.closing p)

/-- The closing word of a transit's or tail's cell: its source, BLOCK, pilot 0 (R87, section 5.10). The source of a cell that
was never opened is its ingress too (log entry 28). -/
def Participation.closingWord (x : Participation) : Word := mkCell x.ingress 0 .block

/-- A transit or tail raises an ALARM toward the head and reports ALARM_SENT, provided it is not closing (R94). -/
def State.raiseAlarm (s : State) (p : Nat) (cause : Cause) : State :=
  match s.entry p with
  | none => s
  | some x =>
    if x.closing then s
    else
      (s.handFrame p x x.ingress
          ⟨x.key, 0, .alarm (BitVec.ofNat 8 cause.code) (BitVec.ofNat 8 x.hop)⟩).report
        { s.jobEvent .alarmSent x.key x.egress x.slot with
          cause := cause.code
          value1 := packWord [⟨x.hop, 0, 4⟩] }

/-- A cell write of this job, PA's or RC's, was answered ERROR (R22). -/
def State.setpointFault (s : State) (key : JobKey) (e slot : Nat) : State :=
  s.report (s.jobEvent .setpointFault key e slot)

/-! ## Hop records (R81) -/

/-- A hop record in the form frames carry it (section 12.3). -/
def mkHopRecord (hop : Nat) (node : BitVec 16) (r : DevResult) (dev : Nat) (c : ContResult) (x : Participation)
    (tnext : Nat) : HopRecord :=
  { hop := BitVec.ofNat 8 hop
    node := node
    results := resultsByte r c
    dev := BitVec.ofNat 16 dev
    budget := BitVec.ofNat 16 x.budget
    limit := BitVec.ofNat 16 x.limit
    count := BitVec.ofNat 8 x.refs.length
    tnext := BitVec.ofNat 16 tnext }

/-- The hop record a node makes at its claim: T_next at the depth class of (start attenuation - target) (R81). -/
def claimRecord (node : BitVec 16) (x : Participation) : HopRecord :=
  mkHopRecord x.hop node .ok 0 .notYet x (x.tableValue (depthClassOf ((x.start : Int) - x.target)))

/-- A record joins a display: in place of one with its hop index, else in ascending order (R81). In a display that does not stand
in ascending order it goes before the first greater index, and one of its own index behind that is kept (log entry 28). -/
def addRecord (r : HopRecord) : List HopRecord → List HopRecord
  | [] => [r]
  | h :: rest =>
    if r.hop.toNat < h.hop.toNat then r :: h :: rest
    else if r.hop = h.hop then r :: rest
    else h :: addRecord r rest

/-- A display holds exactly one record for each hop index lo..hi - 1, each naming the node ID of the path entry of that
index and passing `ok` (R84, R88, R115). Their order is not judged (log entry 28). -/
def displayHolds (d : List HopRecord) (path : List PathEntry) (lo hi : Nat) (ok : HopRecord → Bool) : Bool :=
  d.length == hi - lo &&
    (List.range (hi - lo)).all fun i =>
      match d.find? fun r => r.hop.toNat == lo + i with
      | some r => ok r && (path[lo + i]?).any fun e => e.node == r.node
      | none => false

/-- The figures of a record lie in the ranges a claim's display carries (R84, R88). -/
def claimFiguresOk (r : HopRecord) : Bool :=
  r.dev.toNat ≤ devMax && 10 ≤ r.budget.toNat && r.budget.toNat ≤ 300 && r.budget.toNat + 10 ≤ r.limit.toNat
    && r.limit.toNat ≤ 600 && r.count.toNat ≤ 95 && r.tnext.toNat ≤ permilleMax

/-- A path entry is well formed (check 4 of R62): its node ID is 1..65534, its degrees 0..4 and different, and its
ingress a line degree in every entry but the first. -/
def pathEntryOk (i : Nat) (e : PathEntry) : Bool :=
  e.node.toNat != 0 && e.node.toNat != 65535 && e.ingress.toNat ≤ 4 && e.egress.toNat ≤ 4
    && (i == 0 || e.ingress.toNat != 0) && e.ingress != e.egress

end Sys2Proof.Machine
end

