-- ==== Sys2Proof/Machine/Plan.lean ====
section
/-! DEFINITION. Step planning arithmetic (chapter 7): the effective sensitivity, the allowance, the cap, the plan, the
learning of the correction factors, the backoff ceiling. All on integers. -/

namespace Sys2Proof.Machine

/-- The effective sensitivity S of a hop (R128). -/
def effectiveSensitivity (t k : Nat) : Nat := min permilleMax (ceilDiv (t * k) 1000)

/-- The effective sensitivity of a hop from its current T and K. -/
def HopElem.sensitivity (h : HopElem) : Nat := effectiveSensitivity h.tnext h.factor

/-- The allowance of a hop from its room (R129). -/
def allowanceOf (r : DevResult) (sens : Nat) (room : Int) : Nat :=
  if r = .unmeasured then 0
  else if sens = 0 then allowanceMax
  else if room ≤ 0 then 0
  else min allowanceMax (room.toNat * 1000 / sens)

/-- The allowance Q of a hop: its room is B - D (R129). -/
def HopElem.allowance (h : HopElem) : Nat := allowanceOf h.devResult h.sensitivity ((h.budget : Int) - h.dev)

/-- The path allowance, the smallest of the hops' (R129). No allowance is above 65535. -/
def pathAllowance (hs : List HopElem) : Nat := hs.foldl (fun q h => min q h.allowance) allowanceMax

/-- The limiting hop: the lowest of those whose allowance is the smallest (section 12.2). -/
def limitingHopOf (hs : List HopElem) : Nat :=
  ((hs.find? fun h => h.allowance == pathAllowance hs).map HopElem.hop).getD 0

/-- The cap C (R130). -/
def capOf (p : Profile) (steps : Nat) (ceiling : Option Nat) : Nat :=
  let base := if steps < p.leadIn then p.minStep else p.maxStep
  match ceiling with
  | none => base
  | some c => min base c

/-- The outcome of a plan with this remaining distance and planned step (R131). -/
def planOutcome (minStep rem delta : Nat) : PlanOutcome :=
  if rem = 0 then .commitTest
  else if minStep ≤ delta then .step
  else if delta = rem then .step
  else .noRoom

/-- The remaining distance from a head attenuation to the clamped target (R131). -/
def remaining (a : Atten) (target : Nat) : Nat :=
  match a with
  | .hdb n => n - target
  | .block => attMax - target

/-- The plan a job makes from its figures as they stand (R128 to R131). -/
def Job.makePlan (j : Job) : Plan :=
  let cap := capOf j.profile j.steps j.ceiling
  let rem := remaining j.att j.target
  let delta := min (min (pathAllowance j.hops) cap) rem
  ⟨planOutcome j.profile.minStep rem delta, delta, cap, j.hops.map HopElem.sensitivity⟩

/-- The job with a fresh plan, and the limiting hop that the plan found. -/
def Job.planned (j : Job) : Job := { j with plan := some j.makePlan, limiting := limitingHopOf j.hops }

/-- The correction factor after a planned step of `delta` whose result is OK (R134). -/
def learnFactor (k delta used old new : Nat) : Nat :=
  let predicted := ceilDiv (delta * used) 1000
  let rise : Int := (new : Int) - old
  if 0 < predicted ∧ (predicted : Int) < rise then min permilleMax (ceilDiv (k * rise.toNat) predicted)
  else max 1000 (k - (k - 1000) / 4)

/-- What a hop takes from its record of the cycle: K, when the cycle measured a planned step and the result is OK
(R134), then D, the results and T (R135). -/
def HopElem.learn (h : HopElem) (delta : Option Nat) (r : HopRecord) : HopElem :=
  { h with
    factor :=
      match delta, devResultOf r with
      | some d, .ok => learnFactor h.factor d (h.used.getD 0) h.dev r.dev.toNat
      | _, _ => h.factor
    dev := r.dev.toNat
    devResult := devResultOf r
    contResult := (contResultOf r).getD .unmeasured
    tnext := r.tnext.toNat }

/-- The per-hop array after the records of a cycle (R133). -/
def learnHops (hs : List HopElem) (delta : Option Nat) (rs : List HopRecord) : List HopElem :=
  hs.map fun h =>
    match rs.find? fun r => r.hop.toNat == h.hop with
    | some r => h.learn delta r
    | none => h

/-- The element of the per-hop array of a PATH job, from its hop's record at the claim (R126). -/
def HopElem.ofRecord (r : HopRecord) : HopElem :=
  ⟨r.hop.toNat, r.node, r.budget.toNat, r.limit.toNat, r.count.toNat, r.dev.toNat, devResultOf r,
    (contResultOf r).getD .unmeasured, r.tnext.toNat, 1000, none⟩

/-- The per-hop array made from a complete display of n records (R126). -/
def hopArray (n : Nat) (d : List HopRecord) : List HopElem :=
  (List.range n).filterMap fun i => (d.find? fun r => r.hop.toNat == i).map HopElem.ofRecord

/-- The backoff ceiling after a backoff write (R130, R136). -/
def nextCeiling (minStep : Nat) (lastDelta ceiling : Option Nat) : Nat :=
  let half := max minStep (lastDelta.getD 0 / 2)
  match ceiling with
  | none => half
  | some c => min c half

/-- The ignition value (R127). -/
def Job.ignition (j : Job) : Nat := max j.profile.start j.target

/-- The rollback stack with one more value, the oldest of 8 discarded (R141). -/
def pushStack (a : Atten) (st : List Atten) : List Atten := (a :: st).take stackLimit

/-- The S_used of every hop from the plan applied (R132). -/
def setUsed (hs : List HopElem) (sens : List Nat) : List HopElem :=
  List.zipWith (fun h (x : Nat) => { h with used := some x }) hs sens

/-- The job's figures at the write of a step: the ignition when A is BLOCK, else the planned step (R127, R132, R141). -/
def Job.stepApplied (j : Job) : Job :=
  match j.att with
  | .block =>
    { j with
      att := .hdb j.ignition
      stack := pushStack .block j.stack
      stepNo := j.stepNo + 1
      plan := none
      cycleMeasuresStep := false }
  | .hdb a =>
    match j.plan with
    | none => j
    | some p =>
      { j with
        att := .hdb (a - p.delta)
        stack := pushStack (.hdb a) j.stack
        stepNo := j.stepNo + 1
        lastDelta := some p.delta
        steps := min stepLimit (j.steps + 1)
        hops := setUsed j.hops p.sens
        plan := none
        cycleMeasuresStep := true }

/-- The decision of a measured cycle (R143). -/
inductive Decision where
  | emergency (cause : Cause) (hop : Nat)
  | backoff (hop : Nat)
  | holdUnmeasured
  | commit
  | holdNoRoom
  | continue
deriving DecidableEq, Repr

/-- The lowest hop index of an array with this property. -/
def lowestHop (hs : List HopElem) (p : HopElem → Bool) : Option Nat := (hs.find? p).map HopElem.hop

/-- The decision table, its rows in order (R143). -/
def Job.decision (j : Job) : Decision :=
  match lowestHop j.hops (fun h => h.devResult == .loss), lowestHop j.hops (fun h => h.devResult == .overload),
      lowestHop j.hops (fun h => h.limit < h.dev) with
  | some h, _, _ => .emergency .loss h
  | none, some h, _ => .emergency .overload h
  | none, none, some h => .emergency .excursion h
  | none, none, none =>
    match lowestHop j.hops (fun h => h.contResult == .misroute),
        lowestHop j.hops (fun h => h.contResult == .noLight), lowestHop j.hops (fun h => h.budget < h.dev) with
    | some h, _, _ => .emergency .misroute h
    | none, some h, _ => .emergency .noLight h
    | none, none, some h => .backoff h
    | none, none, none =>
      if j.hops.any fun h => h.devResult == .unmeasured || h.contResult == .unmeasured then .holdUnmeasured
      else
        match j.plan.map Plan.outcome with
        | some .commitTest => .commit
        | some .step => .continue
        | some .noRoom => .holdNoRoom
        | none => .holdNoRoom

end Sys2Proof.Machine
end

