-- ==== Sys2Proof/Machine/Measure.lean ====
section
/-! DEFINITION. The measurement service of MSU (sections 2.5 to 2.8): asking, the deviation and continuity parts, and the
hop record a node makes from a result. -/

namespace Sys2Proof.Machine

/-! ## Asking (R32) -/

/-- The pending measurement of a participation that asks now, with this head attenuation (R32). -/
def State.newMeasurement (s : State) (x : Participation) (a : Atten) : Measurement :=
  { devDegree := x.watched.1
    devDir := x.watched.2
    contDegree := x.continuity.1
    contDir := x.continuity.2
    slot := x.slot
    pilot := x.pilot
    att := a
    visibility := x.visibility
    devMark := s.sweep x.watched.1
    contMark := s.sweep x.continuity.1
    deadline := ⟨s.now, 3 * s.period⟩
    dev := none
    cont := none }

/-- Participation p asks for a measurement, which replaces one it has pending (R32). -/
def State.askMeasurement (s : State) (p : Nat) (a : Atten) : State :=
  match s.entry p with
  | none => s
  | some x => s.setEntry p (some { x with measurement := some (s.newMeasurement x a) })

/-- Participation p's pending measurement is withdrawn without a result (R32). -/
def State.withdraw (s : State) (p : Nat) : State :=
  match s.entry p with
  | none => s
  | some x => s.setEntry p (some { x with measurement := none })

/-! ## The parts (R33, R35, R36, R37) -/

/-- The class of an entry for a measurement that sweep n computes: STALE unless its tag is n (R35). -/
def State.measuredClass (s : State) (d : Nat) (dir : Dir) (slot : Nat) (n : BitVec 16) : LevelClass :=
  if (s.snap d dir slot).tag = .number n then (s.reading d dir slot).cls else .stale

/-- The result of one reference channel, and its deviation when it is OK (R35). -/
def State.channelResult (s : State) (d : Nat) (dir : Dir) (n : BitVec 16) (r : RefChannel) : DevResult × Nat :=
  match s.measuredClass d dir r.slot n with
  | .finite => (.ok, (((s.snap d dir r.slot).level.getD 0) - r.level).natAbs)
  | .dark => (.loss, 0)
  | .over => (.overload, 0)
  | .stale => (.unmeasured, 0)

/-- The rank of a deviation result, the highest first (R36). -/
def DevResult.rank : DevResult → Nat
  | .loss => 3
  | .overload => 2
  | .unmeasured => 1
  | .ok => 0

/-- The higher ranked of two results. -/
def DevResult.worst (a b : DevResult) : DevResult := if a.rank < b.rank then b else a

/-- The hop's deviation part from its channels' results (R36). -/
def combineChannels (n : BitVec 16) (rs : List (DevResult × Nat)) : DevPart :=
  ⟨rs.foldl (fun a r => a.worst r.1) .ok, min devMax (rs.foldl (fun m r => max m r.2) 0), some n⟩

/-- The deviation part that sweep n computes (R35, R36). -/
def State.deviationPart (s : State) (m : Measurement) (refs : List RefChannel) (n : BitVec 16) : DevPart :=
  combineChannels n (refs.map (s.channelResult m.devDegree m.devDir n))

/-- The continuity result of an entry's class and pilot, its rows in order (R37). -/
def continuityOf (cls : LevelClass) (pilot jobPilot : Nat) (visible : Bool) : ContResult :=
  match cls with
  | .stale => .unmeasured
  | .dark => if visible then .noLight else .notYet
  | .finite => if pilot ≠ 0 ∧ pilot ≠ jobPilot then .misroute else if visible then .lit else .notYet
  | .over => if pilot ≠ 0 ∧ pilot ≠ jobPilot then .misroute else if visible then .lit else .notYet

/-- The continuity part that sweep n computes; BLOCK is not visible (R37). -/
def State.continuityPart (s : State) (m : Measurement) (n : BitVec 16) : ContPart :=
  ⟨continuityOf (s.measuredClass m.contDegree m.contDir m.slot n) (s.snap m.contDegree m.contDir m.slot).pilot m.pilot
      (m.att.atMost m.visibility),
    some n⟩

/-- A part with this mark, of this degree, is computed by a header of degree d with number n (R33). -/
def headerComputes (d : Nat) (n : BitVec 16) (degree : Nat) (mark : Option (BitVec 16)) : Bool :=
  d == degree && mark.all fun m => laterSweep n m

/-- The measurement after a header of degree d with number n: each part still open that the header computes (R33). -/
def State.computeParts (s : State) (m : Measurement) (refs : List RefChannel) (d : Nat) (n : BitVec 16) : Measurement :=
  { m with
    dev := if m.dev.isNone && headerComputes d n m.devDegree m.devMark then some (s.deviationPart m refs n) else m.dev
    cont := if m.cont.isNone && headerComputes d n m.contDegree m.contMark then some (s.continuityPart m n) else m.cont }

/-- The result handed to a participation (R38). -/
structure MeasureResult where
  dev : DevPart
  cont : ContPart
deriving DecidableEq, Repr

/-- The result of a measurement whose deadline is reached (R34). -/
def MeasureResult.unmeasured : MeasureResult := ⟨⟨.unmeasured, 0, none⟩, ⟨.unmeasured, none⟩⟩

/-! ## The hop record of a cycle (R113) -/

/-- The depth class at which a hop offers its next T: one beyond that of the head attenuation measured (R113). -/
def nextDepthClass (a : Atten) (target : Nat) : Nat := min 7 (depthClass a target + 1)

/-- The hop record a node makes from a result, with the head attenuation and the target of its cycle (R113). -/
def cycleRecord (node : BitVec 16) (x : Participation) (r : MeasureResult) (a : Atten) (target : Nat) : HopRecord :=
  mkHopRecord x.hop node r.dev.result r.dev.dev r.cont.result x (x.tableValue (nextDepthClass a target))

/-! ## Snoops (R26, R27) -/

/-- MSU takes a copy of a monitor table word (R26). -/
def State.snoopReading (s : State) (d : Nat) (dir : Dir) (slot : Nat) (w : Word) : State :=
  let r := readingClass w
  s.setSnap d dir slot ⟨r.1, r.2, readingPilot w, some s.now, false, .pending⟩

/-- A pending tag of degree d takes the number of the header (R27). -/
def tagEntry (d : Nat) (n : BitVec 16) (i : Nat) (x : SnapEntry) : SnapEntry :=
  if i / 192 + 1 = d ∧ x.tag = .pending then { x with tag := .number n } else x

/-- MSU takes a copy of a sweep header: pending entries are tagged, and the last complete sweep is set (R27). -/
def State.tagSweep (s : State) (d : Nat) (n : BitVec 16) : State :=
  { s with msu := ⟨s.msu.entries.mapIdx (tagEntry d n), s.msu.sweeps.set (d - 1) (some n)⟩ }

end Sys2Proof.Machine
end

