-- ==== Sys2Proof/Machine/Jobs.lean ====
section
/-! DEFINITION. The Ramp Controller's shared operations (chapter 8, and the head's part of chapter 6): writes to the job's
cell, frames of a head, steps, measurements, decisions, backoff, commit, aborts, the unwind, the end of a job, and the
start of a LOCAL job. -/

namespace Sys2Proof.Machine

/-! ## Reading and changing a job -/

/-- What is done with live job j; nothing where there is none. -/
def State.withJob (s : State) (j : Nat) (f : Job → State) : State :=
  match s.job j with
  | some x => f x
  | none => s

/-- Live job j changed by f, and its status record marked for an update (R160). -/
def State.updJob (s : State) (j : Nat) (f : Job → Job) : State :=
  s.withJob j fun x => (s.setJob j (some (f x))).touch j

/-- The timer of a job, from now. -/
def State.jobTimer (s : State) (k : JobTimerKind) (length : Nat) : Option JobTimer := some ⟨k, ⟨s.now, length⟩⟩

/-- The job enters a phase with a timer running, or none; its status record is marked where that changes its phase (R160). -/
def State.enterPhase (s : State) (j : Nat) (p : Phase) (t : Option JobTimer) : State :=
  s.withJob j fun x =>
    let s := s.setJob j (some { x with phase := p, timer := t })
    if x.phase = p then s else s.touch j

/-- The gate of the job's participation is released, if it holds it (R103). -/
def State.releaseJobGate (s : State) (x : Job) : State :=
  match x.entry with
  | none => s
  | some p =>
    match s.entry p with
    | none => s
    | some e => s.releaseGate p e

/-- The hold limit of the job's gate starts again, if it holds it (R104). -/
def State.restartJobGate (s : State) (x : Job) : State :=
  match x.entry with
  | none => s
  | some p =>
    match s.entry p with
    | none => s
    | some e => s.restartGate p e

/-- The pending measurement of the job's participation is withdrawn. -/
def State.withdrawJob (s : State) (x : Job) : State :=
  match x.entry with
  | none => s
  | some p => s.withdraw p

/-! ## Frames of a head (R96, R104) -/

/-- A frame kind that stops the KEEP timer: COMMIT and ABORT (R96). -/
def stopsKeep : FrameBody → Bool
  | .commit => true
  | .abort _ => true
  | _ => false

/-- A PATH job hands a downstream frame to its egress link: the hold limit of its gate and the KEEP timer start again;
COMMIT and ABORT stop the KEEP timer (R96, R104). A LOCAL job sends nothing (R158). -/
def State.jobSend (s : State) (j step : Nat) (b : FrameBody) : State :=
  s.withJob j fun x =>
    if x.isPath then
      let s := s.setJob j (some { x with keepFrom := if stopsKeep b then none else some s.now })
      (s.send x.egress ⟨x.key, BitVec.ofNat 8 step, b⟩).restartJobGate x
    else s

/-- STEP_END with this decision, and the head's gate released (R116). -/
def State.endCycle (s : State) (j : Nat) (decision : Byte) : State :=
  s.withJob j fun x => (s.jobSend j x.stepNo (.stepEnd decision)).releaseJobGate x

/-! ## Writes of the job's cell (R142) -/

/-- A class (c) write of the job's cell; the word carries the job's source (R142). -/
def State.writeJobCell (s : State) (x : Job) (a : Atten) (pilot : Nat) (p : Purpose) : State :=
  s.writeCell .c x.egress x.slot (mkCell x.source pilot a) p

/-- The job's participation becomes closing with the job's closing BLOCK write: the job's source, and the pilot of its
last write (R79, R142). -/
def State.closeJobCell (s : State) (x : Job) : State :=
  match x.entry with
  | none => s
  | some p =>
    match s.entry p with
    | none => s
    | some e => s.closeParticipation p e (mkCell x.source x.lastPilot .block)

/-- The job's hold on its cell ends: the grid entry that its participation owns enters IN_SERVICE, and the participation is
freed (R44, R147, R152). -/
def State.commitEntry (s : State) (x : Job) : State :=
  match x.entry with
  | none => s
  | some p => (s.commitGrid x.egress x.slot).freeParticipation p

/-! ## The end of a job (R159) -/

/-- The JOB_END event (R159, section 12.2). Of a hop index too wide for its field the low bits show (log entry 28). -/
def State.jobEndEvent (s : State) (x : Job) (e : JobEnding) : Event :=
  { s.jobEvent .jobEnd x.key x.egress x.slot with
    cause := x.cause.code
    tag := x.tag
    value1 := packWord [⟨x.att.code, 0, 12⟩, ⟨x.stepNo, 12, 8⟩, ⟨x.backoffs, 20, 2⟩, ⟨flag x.lateAbort, 22, 1⟩,
      ⟨e.outcome.code, 24, 3⟩, ⟨e.left.code, 28, 3⟩]
    value2 := packWord [⟨x.causeHop, 0, 4⟩, ⟨x.remoteCause.code, 4, 8⟩, ⟨x.kind.code, 12, 2⟩, optField x.intercepted 16 16] }

/-- Job j ends: JOB_END is reported, the record ceases, and its number is free (R159). -/
def State.endJob (s : State) (j : Nat) (e : JobEnding) : State :=
  s.withJob j fun x =>
    let s := (s.report (s.jobEndEvent x e)).setJob j none
    { s with marks.ended := (j, x.content (some e)) :: s.marks.ended }

/-- The manner of an abort that has reached its end (R159). -/
def Job.abortOutcome (x : Job) : JobOutcome := if x.emergency then .abortedEmergency else .abortedGraceful

/-! ## Aborts (R149 to R153) -/

/-- An abort finds nothing to act on: the job is COMMITTING, or already closing (R148, R149). -/
def Job.abortProof (x : Job) : Bool := x.phase == .committing || x.closing

/-- An emergency abort (R150). -/
def State.emergencyAbort (s : State) (j : Nat) (cause : Cause) (hop : Nat) (remote : Cause) : State :=
  s.withJob j fun x =>
    if x.abortProof then s
    else
      let s := s.closeJobCell x
      let s := s.updJob j fun x =>
        { x with
          phase := .unwinding
          closing := true
          suspendPending := false
          att := .block
          ownRecord := none
          display := none
          stack := []
          plan := none
          emergency := true
          gracefulCause := if x.phase = .unwinding then x.cause else x.gracefulCause
          cause := cause
          causeHop := hop
          remoteCause := remote
          timer := none }
      s.jobSend j x.stepNo (.abort (BitVec.ofNat 8 cause.code))

/-- The end of an unwind (R152). -/
def State.endUnwind (s : State) (j : Nat) : State :=
  s.withJob j fun x =>
    if x.kind = .raise then
      let start : Atten := .hdb (x.startAtt.getD attMax)
      let s := (s.writeJobCell x start 0 (.restore x.key)).commitEntry x
      s.updJob j fun x =>
        { x with phase := .unwinding, closing := true, att := start, stack := [], entry := none, lastPilot := 0, timer := none }
    else
      let s := s.closeJobCell x
      let s := s.updJob j fun x =>
        { x with phase := .unwinding, closing := true, att := .block, stack := [], timer := none }
      s.jobSend j x.stepNo (.abort (BitVec.ofNat 8 x.cause.code))

/-- A phase in which a graceful abort releases the path's gates with STEP_END(RELEASE) (R151). -/
def Phase.holdsCycle : Phase → Bool
  | .gating => true
  | .settling => true
  | .measuring => true
  | .claiming => false
  | .waiting => false
  | .suspended => false
  | .unwinding => false
  | .committing => false

/-- A graceful abort (R151). A job already unwinding is not aborted again by one (R153). -/
def State.gracefulAbort (s : State) (j : Nat) (cause : Cause) (hop : Nat) : State :=
  s.withJob j fun x =>
    if x.abortProof || x.phase == .unwinding then s
    else
      let s := s.withdrawJob x
      let s := s.updJob j fun x =>
        { x with
          suspendPending := false
          timer := none
          plan := none
          ownRecord := none
          display := none
          emergency := false
          cause := cause
          causeHop := hop }
      let s := if x.phase.holdsCycle then s.endCycle j decisionRelease else s
      if x.att = .block then s.endUnwind j
      else s.enterPhase j .unwinding (s.jobTimer .unwind x.profile.settle)

/-! ## Suspension and waiting (R110, R144, R155) -/

/-- The job becomes SUSPENDED: its timer ends, the planned step is discarded, the flag is cleared (R132, R155). -/
def State.suspendNow (s : State) (j : Nat) : State :=
  s.updJob j fun x => { x with phase := .suspended, suspendPending := false, timer := none, plan := none }

/-- The job waits one settle period of its profile copy before an ungated re-measure (R144, R156). -/
def State.waitSettle (s : State) (j : Nat) : State :=
  s.withJob j fun x => s.enterPhase j .waiting (s.jobTimer .wait x.profile.settle)

/-- The job waits its retry delay (R110, R118, R121). -/
def State.waitRetry (s : State) (j : Nat) : State := s.enterPhase j .waiting (s.jobTimer .retry (retryDelay j))

/-- A BUSY from the path, or the head's own gate held by another, which counts as a BUSY from hop 0 (R106, R110, R121). -/
def State.busyAnswer (s : State) (j hop : Nat) (fromPath : Bool) : State :=
  s.withJob j fun x =>
    let s := s.releaseJobGate x
    let s := s.setJob j (some
      { x with
        timer := none
        silentRun := if fromPath then 0 else x.silentRun
        busyRun := min busyLimit (x.busyRun + 1) })
    if busyLimit ≤ x.busyRun + 1 then s.gracefulAbort j .congested hop else s.waitRetry j

/-! ## Steps (R106, R109, R121, R141) -/

/-- The step write: the ignition, or the held plan (R127, R132, R141). The grid entry of a first step becomes RAMPING
(R43), and a LOCAL participation OPEN (R79). -/
def State.applyStep (s : State) (j : Nat) : State :=
  s.withJob j fun x =>
    let y := x.stepApplied
    let s := (s.writeJobCell y y.att y.pilot (.step y.key)).startRamping y.egress y.slot
    let s := match y.entry with
      | some p =>
        match s.entry p with
        | some e => s.setEntry p (some { e with opened := true })
        | none => s
      | none => s
    s.updJob j fun _ =>
      { y with lastPilot := y.pilot, phase := .settling, timer := s.jobTimer .settle y.profile.settle }

/-- A PATH job that has taken its gate enters GATING and sends its INTENT (R106). -/
def State.sendIntent (s : State) (j : Nat) : State :=
  s.withJob j fun x =>
    let s := s.enterPhase j .gating (s.jobTimer .readyBusyWindow (replyWindow x.path.length))
    s.jobSend j (x.stepNo + 1) (.intent (BitVec.ofNat 16 x.att.code) (BitVec.ofNat 16 x.target))

/-- A LOCAL job that has taken its gate makes its step write; the busy run becomes 0 (R121). -/
def State.localStep (s : State) (j : Nat) : State :=
  (s.updJob j fun x => { x with busyRun := 0 }).applyStep j

/-- The job would begin a gated step: a pending suspend acts (R155); a step number of 255 ends it (R141); a gate held by
another turns it away (R106, R121); else it takes its gate and goes on. -/
def State.beginStep (s : State) (j : Nat) : State :=
  s.withJob j fun x =>
    if x.suspendPending then s.suspendNow j
    else if stepLimit ≤ x.stepNo then s.gracefulAbort j .stepLimit 0
    else
      match x.entry with
      | none => s
      | some p =>
        match s.entry p with
        | none => s
        | some e =>
          if s.gateBusy p e then s.busyAnswer j 0 false
          else
            let s := s.takeGate p e (x.stepNo + 1) x.att
            if x.isPath then s.sendIntent j else s.localStep j

/-! ## Measuring (R111, R121) -/

/-- The job measures: MEASURE goes to the path and the REPORT window starts, and the participation asks MSU (R111, R121). -/
def State.beginMeasure (s : State) (j : Nat) : State :=
  s.withJob j fun x =>
    let s := s.updJob j fun x =>
      { x with
        phase := .measuring
        ownRecord := none
        display := none
        timer := if x.isPath then s.jobTimer .reportWindow (reportWindow s.period x.path.length) else none }
    let s := s.jobSend j x.stepNo (.measure (BitVec.ofNat 16 x.att.code) (BitVec.ofNat 16 x.target))
    match x.entry with
    | some p => (s.askMeasurement p x.att).restartJobGate x
    | none => s

/-- An ungated re-measure would begin: a pending suspend acts (R155); a job whose ignition has not been written begins it
again (R156). -/
def State.beginRemeasure (s : State) (j : Nat) : State :=
  s.withJob j fun x =>
    if x.suspendPending then s.suspendNow j
    else if x.att = .block then s.beginStep j
    else s.beginMeasure j

/-! ## Decisions (R133, R144, R145, R147) -/

/-- Both runs become 0, as at any decision other than HOLD (R144). -/
def State.zeroRuns (s : State) (j : Nat) : State :=
  s.updJob j fun x => { x with unmeasuredRun := 0, noRoomRun := 0 }

/-- A HOLD that stands (R144). -/
def State.holdStands (s : State) (j : Nat) : State := (s.endCycle j decisionHold).waitSettle j

/-- A HOLD counted as unmeasured (R144). -/
def State.holdUnmeasured (s : State) (j : Nat) : State :=
  s.withJob j fun x =>
    let s := s.updJob j fun x => { x with unmeasuredRun := min holdLimit (x.unmeasuredRun + 1) }
    if holdLimit ≤ x.unmeasuredRun + 1 then s.gracefulAbort j .monitor 0 else s.holdStands j

/-- A HOLD counted as no room (R144). -/
def State.holdNoRoom (s : State) (j : Nat) : State :=
  s.withJob j fun x =>
    let s := s.updJob j fun x => { x with noRoomRun := min holdLimit (x.noRoomRun + 1) }
    if holdLimit ≤ x.noRoomRun + 1 then s.gracefulAbort j .noRoom 0 else s.holdStands j

/-- The backoff write of a popped value (R136, R142, R145). A plan that was made and not applied stays in the record until the
next (log entry 28). -/
def State.backoffWrite (s : State) (j : Nat) (a : Atten) (rest : List Atten) : State :=
  s.withJob j fun x =>
    let s := s.writeJobCell x a x.pilot (.step x.key)
    s.updJob j fun x =>
      { x with
        att := a
        stack := rest
        backoffs := x.backoffs + 1
        stepNo := x.stepNo + 1
        ceiling := some (nextCeiling x.profile.minStep x.lastDelta x.ceiling)
        cycleMeasuresStep := false
        lastPilot := x.pilot
        phase := .settling
        timer := s.jobTimer .settle x.profile.settle }

/-- A BACKOFF, its tests in order (R145). -/
def State.backoff (s : State) (j hop : Nat) : State :=
  (s.zeroRuns j).withJob j fun x =>
    let s := s.zeroRuns j
    if backoffLimit ≤ x.backoffs then s.gracefulAbort j .budget hop
    else if stepLimit ≤ x.stepNo then s.gracefulAbort j .stepLimit 0
    else
      match x.stack with
      | [] => s.gracefulAbort j .budget hop
      | .block :: rest =>
        (s.updJob j fun x => { x with att := .block, stack := rest }).gracefulAbort j .budget hop
      | .hdb n :: rest => s.backoffWrite j (.hdb n) rest

/-- A COMMIT decision (R147). -/
def State.commitJob (s : State) (j : Nat) : State :=
  (s.zeroRuns j).withJob j fun x =>
    let s := s.zeroRuns j
    let s := (s.writeJobCell x (.hdb x.target) 0 (.commit x.key)).commitEntry x
    let s := s.updJob j fun x =>
      { x with
        att := .hdb x.target
        entry := none
        suspendPending := false
        lastPilot := 0
        phase := .committing
        timer := if x.isPath then s.jobTimer .committedWindow (replyWindow x.path.length) else none }
    s.jobSend j 0 .commit

/-- A CONTINUE: the gates are released and the next step begins at the same event (R144). -/
def State.continueJob (s : State) (j : Nat) : State := ((s.zeroRuns j).endCycle j decisionContinue).beginStep j

/-- A decision is carried out at its event. -/
def State.carryOut (s : State) (j : Nat) : Decision → State
  | .emergency c h => (s.zeroRuns j).emergencyAbort j c h .none
  | .backoff h => s.backoff j h
  | .holdUnmeasured => s.holdUnmeasured j
  | .commit => s.commitJob j
  | .holdNoRoom => s.holdNoRoom j
  | .continue => s.continueJob j

/-- A job at its decision event, with what the records of its cycle taught it and its plan: factors, figures, plan (R133). -/
def Job.afterCycle (x : Job) (rs : List HopRecord) : Job :=
  let hops := learnHops x.hops (if x.cycleMeasuresStep then x.lastDelta else none) rs
  { x with hops := hops, cycleMeasuresStep := false, ownRecord := none, display := none, timer := none }.planned

/-- The decision event of a measured cycle, from its records: figures, plan, decision (R133). -/
def State.decide (s : State) (j : Nat) (rs : List HopRecord) : State :=
  s.withJob j fun x =>
    let y := x.afterCycle rs
    ((s.setJob j (some y)).touch j).carryOut j y.decision

/-- RC decides when it holds both the head's own record and a complete display (R115); a LOCAL job's own record is all
its figures (R121). -/
def State.decideIfReady (s : State) (j : Nat) : State :=
  s.withJob j fun x =>
    match x.ownRecord, x.display with
    | some r, some d => s.decide j (r :: d)
    | some r, none => if x.isPath then s else s.decide j [r]
    | none, _ => s

/-! ## The start of a job (R63, R64, R157) -/

/-- The next job key: the lowest free number, and its next generation (R64). -/
def State.newKey (s : State) : JobKey :=
  ⟨s.cfg.node.nodeId, BitVec.ofNat 3 s.freeJob, s.cfg.nextGen.get s.freeJob⟩

/-- The number's next generation advances (R64). -/
def State.takeNumber (s : State) : State :=
  { s with cfg.nextGen := s.cfg.nextGen.set s.freeJob (s.cfg.nextGen.get s.freeJob + 1) }

/-- A job record with everything that a job starts with (R139). -/
def Job.fresh (key : JobKey) (kind : JobKind) (prof : Profile) (egress slot source target entry : Nat) : Job :=
  { key := key, tag := 0, kind := kind, phase := .claiming, closing := false, suspendPending := false, lateAbort := false
    profile := prof, pilot := 0, egress := egress, slot := slot, source := source, att := .block, target := target
    startAtt := none, intercepted := none, path := [], entry := some entry, stepNo := 0, backoffs := 0
    unmeasuredRun := 0, noRoomRun := 0, silentRun := 0, busyRun := 0, ownRecord := none, display := none, hops := []
    stack := [], steps := 0, lastDelta := none, ceiling := none, plan := none, limiting := 0, cycleMeasuresStep := false
    lastPilot := 0, emergency := false, cause := .none, causeHop := 0, remoteCause := .none, gracefulCause := .none
    timer := none, keepFrom := none }

/-- A participation entry with what its creation gives it, before its reference set and its figures (R77). -/
def Participation.fresh (key : JobKey) (role : Role) (slot ingress egress hop : Nat) (path : List PathEntry)
    (pilot target start visibility : Nat) : Participation :=
  { key := key, role := role, slot := slot, ingress := ingress, egress := egress, hop := hop, path := path, pilot := pilot
    target := target, start := start, visibility := visibility, opened := false, closing := false, orphaned := false
    budget := 0, limit := 0, refs := [], row := [], routeAtt := none, orphanFrom := none, measurement := none
    cycle := none, ownRecord := none, heldReport := none, intents := [] }

/-- The JOB_STARTED event (R74, section 12.2). -/
def State.jobStartedEvent (s : State) (x : Job) (clamped : Bool) : Event :=
  { s.jobEvent .jobStarted x.key x.egress x.slot with
    cause := if clamped then Cause.clamped.code else 0
    tag := x.tag
    value1 := packWord [⟨x.target, 0, 12⟩]
    value2 := packWord [⟨x.hopCount, 0, 5⟩, ⟨x.kind.code, 8, 2⟩, optField x.intercepted 16 16] }

/-- A request for a LOCAL job (R8, R9, R12): `start` is the current attenuation, of a RAISE request. -/
structure LocalRequest where
  kind : JobKind
  egress : Nat
  slot : Nat
  source : Nat
  target : Nat
  start : Option Nat
  clamped : Bool
deriving DecidableEq, Repr

/-- The head attenuation a LOCAL job starts from (R157). -/
def LocalRequest.att (r : LocalRequest) : Atten :=
  match r.start with
  | none => .block
  | some a => .hdb a

/-- The depth at which a LOCAL job's first T is looked up: from profile 0's start attenuation for a LIGHT job, from the
cell's attenuation for a RAISE job (R126). -/
def LocalRequest.depth (r : LocalRequest) (prof : Profile) (target : Nat) : Int :=
  ((r.start.getD prof.start : Nat) : Int) - target

/-- A target below the floor of its egress becomes the floor (R157). -/
def State.flooredTarget (s : State) (r : LocalRequest) : Nat := max (s.degree r.egress).floor r.target

/-- The participation that a LOCAL job gets (R31, R70, R76, R77, R157). -/
def State.localEntry (s : State) (r : LocalRequest) : Participation :=
  let prof := s.cfg.profiles.get 0
  s.newEntry
    (Participation.fresh s.newKey .localRole r.slot 0 r.egress 0 [] 0 (s.flooredTarget r) prof.start prof.visibility)

/-- The one element of a LOCAL job's per-hop array: this node (R126). -/
def State.localHop (s : State) (r : LocalRequest) : HopElem :=
  let e := s.localEntry r
  ⟨0, s.cfg.node.nodeId, e.budget, e.limit, e.refs.length, 0, .ok, .notYet,
    e.tableValue (depthClassOf (r.depth (s.cfg.profiles.get 0) (s.flooredTarget r))), 1000, none⟩

/-- The record of a LOCAL job as it is made; it stands in WAITING until its first step, within the event (R139, R157; log
entry 20). -/
def State.localJob (s : State) (r : LocalRequest) : Job :=
  { Job.fresh s.newKey r.kind (s.cfg.profiles.get 0) r.egress r.slot r.source (s.flooredTarget r) s.freeEntry with
    phase := .waiting
    att := r.att
    startAtt := r.start
    intercepted := some (cellOffset r.egress r.slot)
    hops := [s.localHop r] }

/-- The job number and the participation of a LOCAL job are made, the entry is taken, and JOB_STARTED is reported (R64, R74,
R76, R157). -/
def State.createLocal (s : State) (r : LocalRequest) : State :=
  let j := s.freeJob
  let p := s.freeEntry
  let x := s.localJob r
  let t := ((s.takeNumber.setEntry p (some (s.localEntry r))).reserve r.egress r.slot p).setJob j (some x)
  (t.touch j).report (t.jobStartedEvent x (r.clamped || r.target < (s.degree r.egress).floor))

/-- A RAISE job has no distance to go: its clamped target becomes its starting attenuation, and it takes a graceful abort
FLOOR (R157). -/
def State.floorAbort (s : State) (j start : Nat) : State :=
  (s.updJob j fun x => { x with target := start }).gracefulAbort j .floor 0

/-- A RAISE job plans its first step from the array as made, and asks for it, or holds (R157). -/
def State.firstRaise (s : State) (j : Nat) : State :=
  (s.updJob j Job.planned).withJob j fun x =>
    let s := s.updJob j Job.planned
    if x.plan.map Plan.outcome = some .noRoom then
      (s.updJob j fun x => { x with noRoomRun := x.noRoomRun + 1 }).waitSettle j
    else s.beginStep j

/-- A LIGHT or RAISE request handed to RC starts a LOCAL job at that grant (R157). -/
def State.startLocal (s : State) (r : LocalRequest) : State :=
  let j := s.freeJob
  let s := s.createLocal r
  s.withJob j fun x =>
    match x.startAtt with
    | none => s.beginStep j
    | some a => if a ≤ x.target then s.floorAbort j a else s.firstRaise j

/-! ## Loss of a link (R98, R148, R153) -/

/-- The head job j loses its egress link or its neighbour restarts: PATH_LOST (R98, R148). -/
def State.jobPathLost (s : State) (j d : Nat) : State :=
  s.withJob j fun x =>
    if x.isPath && x.egress == d then
      if x.phase = .committing then
        (s.updJob j fun x => { x with cause := .pathLost }).endJob j ⟨.commitUnconfirmed, .inService⟩
      else s.emergencyAbort j .pathLost 0 .none
    else s

/-- Entry p loses the link of its egress: a transit raises ALARM(PATH_LOST) (R94, R98). -/
def State.entryPathLost (s : State) (p d : Nat) : State :=
  match s.entry p with
  | some x => if x.role = .transit ∧ x.egress = d then s.raiseAlarm p .pathLost else s
  | none => s

/-- PA acts on everything that uses the link of degree d toward its tail (R98). -/
def State.pathLost (s : State) (d : Nat) : State :=
  let s := (List.range Config.entries).foldl (fun s p => s.entryPathLost p d) s
  (List.range Config.jobs).foldl (fun s j => s.jobPathLost j d) s

end Sys2Proof.Machine
end

