-- ==== Sys2Proof/Machine/Reader.lean ====
section
/-! DEFINITION. The Order Reader's ring (R57 to R61) and the outcome reports of orders (R74). -/

namespace Sys2Proof.Machine

/-- OR begins to read the order of slot (consumer index): the lower half first (R59). -/
def State.startOrderRead (s : State) : State :=
  { s with ord.reader := .readingLower }.produce ⟨.d, orderOffset s.ord.consumer, 16, none, .orderLower, []⟩

/-- OR reads when the consumer index differs from the target, and is IDLE otherwise (R58, R59). -/
def State.readOrIdle (s : State) : State :=
  if s.ord.consumer = s.ord.target then { s with ord.reader := .idle } else s.startOrderRead

/-- A producer value handed to OR is judged (R58). -/
def State.producerValue (s : State) (v : Word) (master : BitVec 4) : State :=
  if orderSlots ≤ v.toNat then
    s.report { s.event .orderIndexBad with value1 := v, value2 := packWord [⟨master.toNat, 0, 4⟩] }
  else
    match s.ord.reader with
    | .waiting => { s with ord.remembered := some v.toNat }
    | .idle => { s with ord.target := v.toNat }.readOrIdle
    | .readingLower => { s with ord.target := v.toNat }
    | .readingUpper _ => { s with ord.target := v.toNat }

/-- OR leaves WAITING at the end of adoption: a remembered value becomes its target (R58). -/
def State.leaveWaiting (s : State) : State :=
  { s with ord.target := s.ord.remembered.getD s.ord.target, ord.remembered := none }.readOrIdle

/-- The consumer index advances, and OR reads on or becomes IDLE (R60). -/
def State.orderEnded (s : State) : State :=
  { s with ord.consumer := (s.ord.consumer + 1) % orderSlots }.readOrIdle

/-- What an order's outcome report shows beside the common fields (R74): the egress or degree, and the slot, that the
order names; the tag; value 2. -/
structure OutcomeFields where
  kind : Nat
  tag : Word
  egress : Option Nat
  slot : Option Nat
  value2 : Word
deriving DecidableEq, Repr

/-- ORDER_DONE (R74). -/
def State.orderDone (s : State) (o : OutcomeFields) : State :=
  s.report
    { s.event .orderDone with
      egress := o.egress
      slot := o.slot
      cause := o.kind
      tag := o.tag
      value1 := packWord [⟨s.ord.consumer, 0, 5⟩]
      value2 := o.value2 }

/-- ORDER_REFUSED with its reason (R74). -/
def State.orderRefused (s : State) (reason : Cause) (o : OutcomeFields) : State :=
  s.report
    { s.event .orderRefused with
      egress := o.egress
      slot := o.slot
      cause := reason.code
      tag := o.tag
      value1 := packWord [⟨s.ord.consumer, 0, 5⟩, ⟨o.kind, 8, 8⟩]
      value2 := o.value2 }

end Sys2Proof.Machine
end

