-- ==== Sys2Proof/Machine/Adoption.lean ====
section
/-! DEFINITION. Adoption and the intake of a degree: settling cells, and the two ends (chapter 11, R55, R56). -/

namespace Sys2Proof.Machine

/-- ADOPT_DARK for cell (e, slot) with its watch (R184, section 12.2). -/
def State.adoptDarkEvent (s : State) (e slot : Nat) (w : CellWatch) (kept : Bool) : Event :=
  { s.slotEvent .adoptDark e slot with
    value1 := packWord [⟨w.degree, 0, 3⟩, ⟨w.dir.code, 4, 1⟩, ⟨flag kept, 8, 1⟩]
    value2 := w.word }

/-- A waiting cell is settled from the current reading at the first header of its watch's degree (R184, R55). -/
def State.settleByHeader (s : State) (e slot : Nat) (w : CellWatch) : State :=
  let r := s.reading w.degree w.dir slot
  let s := s.setSettlement e slot .settled
  if e = 0 then
    let s := s.enterService 0 slot none
    if r.cls = .dark then s.report (s.adoptDarkEvent e slot w true) else s
  else
    match r.cls with
    | .dark =>
      (s.setGrid e slot ⟨.quarantined, none, none, false, false⟩).report (s.adoptDarkEvent e slot w false)
    | .finite => s.enterService e slot r.level
    | .over => s.enterService e slot none
    | .stale => s.enterService e slot none

/-- A waiting cell is settled at its deadline (R184, R55). -/
def State.settleByDeadline (s : State) (e slot : Nat) : State :=
  (s.setSettlement e slot .settled).enterService e slot none

/-- The cells that wait for a header of degree d, in ascending cell address. -/
def State.waitingCells (s : State) (d : Nat) : List (Nat × CellWatch) :=
  (List.zip (List.range Config.gridEntries) s.cg.settlements.cells).filterMap fun x =>
    match x.2 with
    | .waiting w => if w.degree = d then some (x.1, w) else none
    | .unread => none
    | .settled => none

/-- A header of degree d settles every cell that waits for it (R184). -/
def State.settleAll (s : State) (d : Nat) : State :=
  (s.waitingCells d).foldl (fun s x => s.settleByHeader (x.1 / 96) (x.1 % 96) x.2) s

/-- The number of entries in a state among the egresses chosen. -/
def State.countGrid (s : State) (egress : Nat → Bool) (g : GridState) : Nat :=
  ((List.zip (List.range Config.gridEntries) s.cg.entries.cells).filter
    fun x => egress (x.1 / 96) && x.2.state == g).length

/-- ADOPTED with its three counts (R185, R56, section 12.2). -/
def State.adoptedEvent (s : State) (degree : Option Nat) (egress : Nat → Bool) : Event :=
  { s.event .adopted with
    egress := degree
    value1 := packWord [⟨s.countGrid egress .free, 0, 9⟩, ⟨s.countGrid egress .inService, 16, 9⟩]
    value2 := packWord [⟨s.countGrid egress .quarantined, 0, 9⟩] }

/-- The watch timer of degree d starts with the interval of the settings (R49). -/
def State.startWatch (s : State) (d : Nat) : State := s.setWatch d (some ⟨s.now, (s.degree d).driftInterval⟩)

/-- The node status record is updated within the event (R185). -/
def State.showNode (s : State) : State :=
  { s with shelf := s.shelf.statusUpdate 0 s.nodeContent, marks.shown := some s.nodeContent }

/-- Adoption ends, its five acts in order (R185). -/
def State.endAdoption (s : State) : State :=
  let s := s.report (s.adoptedEvent none fun e => e == 0 || maskHas s.adoption.equipped e)
  let s := { s with mode := .running }.showNode
  let s := [1, 2, 3, 4].foldl (fun s d => if s.isEquipped d then s.startWatch d else s) s
  { s with slc.freshFrom := some s.now }.leaveWaiting

/-- Adoption ends when every governed cell is settled and the producer word's read has been answered (R185). -/
def State.checkAdopted (s : State) : State :=
  if s.mode = .adopting ∧ s.adoption.producerRead = true ∧ s.cg.settlements.cells.all (· == .settled) then s.endAdoption
  else s

/-- Every cell of degree d is settled. -/
def State.degreeSettled (s : State) (d : Nat) : Bool :=
  ((s.cg.settlements.cells.drop (d * 96)).take 96).all (· == .settled)

/-- The intake of degree d ends when its last cell is settled (R56). -/
def State.checkIntake (s : State) (d : Nat) : State :=
  if s.inIntake d && s.degreeSettled d then
    let s := s.report (s.adoptedEvent (some d) fun e => e == d)
    { s with cg.intakes := s.cg.intakes.set (d - 1) false }.startWatch d
  else s

/-- The read of a governed cell answers, in adoption or in its degree's intake (R183, R55): ERROR quarantines the entry, an
unlit word leaves it FREE, a lit word waits, but for an L cell whose source is no degree of the equipped set. -/
def State.cellAnswer (s : State) (e slot : Nat) (equipped : BitVec 4) : Option Word → State
  | none => (s.setSettlement e slot .settled).quarantine e slot .readError none
  | some w =>
    if !cellLit w then s.setSettlement e slot .settled
    else
      let wait (d : Nat) (dir : Dir) := s.setSettlement e slot (.waiting ⟨d, dir, ⟨s.now, 3 * s.period⟩, w⟩)
      if e ≠ 0 then wait e .outward
      else if maskHas equipped (cellSource w) then wait (cellSource w) .inward
      else (s.setSettlement e slot .settled).enterService e slot none

end Sys2Proof.Machine
end

