-- ==== Sys2Proof/Machine/Pairing.lean ====
section
/-! DEFINITION. What follows a sweep header: the results of measurements reach their participations (R33, R38), a transit
pairs its record with the REPORT from downstream (R114), and waiting cells are settled (R184). -/

namespace Sys2Proof.Machine

/-- A transit that holds both its own record and the REPORT of its cycle hands the REPORT, with its record added, to the
link of its ingress, and then holds nothing (R114). A REPORT of 16 records that has none of its hop index sends the 16 of the
lowest hop indices: no frame carries more (R188; log entry 28). -/
def State.pairReport (s : State) (p : Nat) : State :=
  match s.entry p with
  | none => s
  | some x =>
    match x.ownRecord, x.heldReport, x.cycle with
    | some r, some d, some c =>
      let y := { x with ownRecord := none, heldReport := none }
      (s.setEntry p (some y)).handFrame p y y.ingress ⟨y.key, c.step, .report ((addRecord r d).take displayLimit)⟩
    | _, _, _ => s

/-- The result of a completed measurement reaches participation p, by its role (R38, R113 to R115, R121). -/
def State.deliver (s : State) (p : Nat) (r : MeasureResult) : State :=
  match s.entry p with
  | none => s
  | some x =>
    match x.measurement with
    | none => s
    | some m =>
      let y := { x with measurement := none }
      let s := s.setEntry p (some y)
      let leads :=
        let j := y.key.job.toNat
        s.withJob j fun job =>
          (s.setJob j (some { job with ownRecord := some (cycleRecord s.cfg.node.nodeId y r m.att job.target) })).decideIfReady j
      match y.role, y.cycle with
      | .head, _ => leads
      | .localRole, _ => leads
      | .transit, some c =>
        (s.setEntry p (some { y with ownRecord := some (cycleRecord s.cfg.node.nodeId y r c.att c.target) })).pairReport p
      | .tail, some c =>
        s.handFrame p y y.ingress ⟨y.key, c.step, .report [cycleRecord s.cfg.node.nodeId y r c.att c.target]⟩
      | .transit, none => s
      | .tail, none => s

/-- A header of degree d with number n computes the open parts of participation p's measurement, and completes it when
both are computed (R33). -/
def State.measureOne (s : State) (d : Nat) (n : BitVec 16) (p : Nat) : State :=
  match s.entry p with
  | none => s
  | some x =>
    match x.measurement with
    | none => s
    | some m =>
      let m := s.computeParts m x.refs d n
      match m.dev, m.cont with
      | some a, some b => s.deliver p ⟨a, b⟩
      | _, _ => s.setEntry p (some { x with measurement := some m })

/-- MSU takes a copy of the sweep header of degree d with number n (R27): measurements are computed, then waiting cells
settled, and an adoption or an intake whose last cell that was ends. The results that one header completes are handed over in
ascending participation index, an order that R38 leaves open (log entry 28). -/
def State.sweepHeader (s : State) (d : Nat) (n : BitVec 16) : State :=
  let s := s.tagSweep d n
  let s := (List.range Config.entries).foldl (fun s p => s.measureOne d n p) s
  ((s.settleAll d).checkAdopted).checkIntake d

end Sys2Proof.Machine
end

