-- ==== Sys2Proof/Machine/Judge.lean ====
section
/-! DEFINITION. BI's judgement of upstream write beats (R4 to R14): what is forwarded, what the grid becomes, what is
reported, and what the beat may be snooped for. -/

namespace Sys2Proof

/-- All four byte enables are on. -/
def WriteBeat.whole (b : WriteBeat) : Bool := b.enables == 0b1111

/-- A dropped beat is forwarded with its byte enables off (R1). -/
def WriteBeat.dropped (b : WriteBeat) : WriteBeat := { b with enables := 0 }

end Sys2Proof

namespace Sys2Proof.Machine

/-- What a judged beat leaves: the state, the beat as forwarded, its report, and the snoop it earns. -/
structure Verdict where
  state : State
  out : WriteBeat
  report : Option Event
  snoop : Option Snoop
deriving DecidableEq, Repr

/-- The report of a cell write beat (R11, section 12.2). -/
def State.cellEvent (s : State) (k : EventKind) (e slot : Nat) (cause : Cause) (master : BitVec 4) (clamp : Bool)
    (b : WriteBeat) : Event :=
  { s.slotEvent k e slot with
    cause := cause.code
    value1 := packWord [⟨master.toNat, 0, 4⟩, ⟨flag clamp, 8, 1⟩]
    value2 := b.data }

/-- CHANNEL_REMOVED also carries the commit level the entry had (R11, R45). -/
def State.removedEvent (s : State) (e slot : Nat) (master : BitVec 4) (b : WriteBeat) : Event :=
  let level := (s.grid e slot).commitLevel
  { s.cellEvent .channelRemoved e slot .none master (clampApplies b.data) b with
    value1 := packWord [⟨master.toNat, 0, 4⟩, ⟨flag (clampApplies b.data), 8, 1⟩, ⟨flag level.isSome, 9, 1⟩,
      ⟨levelBits (level.getD 0), 16, 16⟩] }

/-- A beat dropped with its report. -/
def State.dropBeat (s : State) (b : WriteBeat) (e : Event) : Verdict := ⟨s, b.dropped, some e, none⟩

/-- A beat dropped as an INTERCEPT after the rewrite, where the clamp is shown (R5, R11). -/
def State.intercept (s : State) (e slot : Nat) (cause : Cause) (master : BitVec 4) (b : WriteBeat) : Verdict :=
  s.dropBeat b (s.cellEvent .intercept e slot cause master (clampApplies b.data) b)

/-- A beat forwarded as rewritten (R5). -/
def State.forwardBeat (s : State) (b : WriteBeat) : Verdict := ⟨s, ⟨rewriteCell b.data, 0b1111⟩, none, none⟩

/-- A beat to an IN_SERVICE cell that unlights it: forwarded, the entry FREE, CHANNEL_REMOVED reported (R9, R10, R45). -/
def State.removeChannel (s : State) (e slot : Nat) (master : BitVec 4) (b : WriteBeat) : Verdict :=
  ⟨s.setGrid e slot GridEntry.freeEntry, ⟨rewriteCell b.data, 0b1111⟩, some (s.removedEvent e slot master b), none⟩

/-- A beat converted into a local job request, handed to RC, and dropped without report (R8, R9, R12). -/
def State.convertBeat (s : State) (b : WriteBeat) (r : LocalRequest) : Verdict := ⟨s.startLocal r, b.dropped, none, none⟩

/-- A write to an owned or quarantined entry is dropped; the owner's key is carried where there is one (R7). -/
def State.ownedBeat (s : State) (e slot : Nat) (master : BitVec 4) (b : WriteBeat) : Verdict :=
  s.dropBeat b
    { s.cellEvent .intercept e slot .owned master (clampApplies b.data) b with
      key := ((s.grid e slot).owner.bind s.entry).map Participation.key }

/-- A beat to a FREE line cell (R8). -/
def State.judgeFree (s : State) (e slot : Nat) (master : BitVec 4) (b : WriteBeat) : Verdict :=
  let w := rewriteCell b.data
  if !cellLit w then s.forwardBeat b
  else if s.cfg.node.nodeId = 0 then s.intercept e slot .noEntry master b
  else if !s.headSlotFree then s.intercept e slot .noEntry master b
  else
    s.convertBeat b
      { kind := .light
        egress := e
        slot := slot
        source := cellSource w
        target := bitsOf w 0 12
        start := none
        clamped := clampApplies b.data }

/-- A beat to an L cell whose entry is FREE (R10). -/
def State.judgeFreeLocal (s : State) (slot : Nat) (b : WriteBeat) : Verdict :=
  if cellLit (rewriteCell b.data) then (s.enterService 0 slot none).forwardBeat b else s.forwardBeat b

/-- A beat to an L cell whose entry is IN_SERVICE (R10). -/
def State.judgeServiceLocal (s : State) (slot : Nat) (master : BitVec 4) (b : WriteBeat) : Verdict :=
  if cellLit (rewriteCell b.data) then s.forwardBeat b else s.removeChannel 0 slot master b

/-- The current source and attenuation that R9 judges against: an unlit current word is judged as though it held the new
source and attenuation 2500 (R9). -/
def currentOf (current new : Word) : Nat × Nat :=
  if cellLit current then (cellSource current, bitsOf current 0 12) else (cellSource new, attMax)

/-- A beat to an IN_SERVICE line cell, against the current word of the check read (R9). -/
def State.judgeService (s : State) (e slot : Nat) (master : BitVec 4) (b : WriteBeat) (current : Word) : Verdict :=
  let w := rewriteCell b.data
  let c := currentOf current w
  let new := bitsOf w 0 12
  if !cellLit w then s.removeChannel e slot master b
  else if cellSource w ≠ c.1 then s.intercept e slot .reroute master b
  else if c.2 ≤ new + freeStep then s.forwardBeat b
  else if s.cfg.node.nodeId = 0 then s.intercept e slot .noEntry master b
  else if !s.headSlotFree then s.intercept e slot .noEntry master b
  else
    s.convertBeat b
      { kind := .raise
        egress := e
        slot := slot
        source := c.1
        target := new
        start := some c.2
        clamped := clampApplies b.data }

/-- A write beat to a governed cell, its steps in order (R5). `current` is the answer of the check read for this cell:
none for ERROR. The grid entry alone decides, also where a LOCAL job that has written its commit or its restore still lives
(R158; log entry 28). -/
def State.judgeCell (s : State) (e slot : Nat) (master : BitVec 4) (b : WriteBeat) (current : Option Word) : Verdict :=
  if s.isAdopting || s.inIntake e then s.dropBeat b (s.cellEvent .intercept e slot .notReady master false b)
  else if !b.whole then s.dropBeat b (s.cellEvent .malformedWrite e slot .none master false b)
  else
    match (s.grid e slot).state with
    | .reserved => s.ownedBeat e slot master b
    | .ramping => s.ownedBeat e slot master b
    | .quarantined => s.ownedBeat e slot master b
    | .free => if e = 0 then s.judgeFreeLocal slot b else s.judgeFree e slot master b
    | .inService =>
      if e = 0 then s.judgeServiceLocal slot master b
      else
        match current with
        | none => s.intercept e slot .readError master b
        | some w => s.judgeService e slot master b w

/-- MALFORMED_WRITE of a snooped word (R13, R14), reported at the judgement, whatever memory answers to the transaction (log
entry 28). -/
def State.malformedSnoop (s : State) (b : WriteBeat) : Verdict := ⟨s, b, some (s.event .malformedWrite), none⟩

/-- A beat forwarded unchanged, with the snoop it earns when it is whole (R13, R14). -/
def State.snoopBeat (s : State) (b : WriteBeat) (x : Snoop) : Verdict :=
  if b.whole then ⟨s, b, none, some x⟩ else s.malformedSnoop b

/-- A beat to the monitor table or a sweep header: only the scanner's is copied (R13). -/
def State.monitorBeat (s : State) (master : BitVec 4) (b : WriteBeat) (x : Snoop) : Verdict :=
  if master = s.cfg.node.scanner then s.snoopBeat b x else ⟨s, b, none, none⟩

/-- A write beat is treated as its region's row states (R4). -/
def State.judgeBeat (s : State) (master : BitVec 4) (addr : Word) (b : WriteBeat) (current : Option Word) : Verdict :=
  match regionOf s.shelf.bus.winsel addr with
  | .cell e slot => if s.governed e then s.judgeCell e slot master b current else ⟨s, b, none, none⟩
  | .monitor d dir slot => s.monitorBeat master b (.reading d dir slot b.data)
  | .sweepHeader d => s.monitorBeat master b (.header d (b.data.setWidth 16))
  | .producerWord => s.snoopBeat b (.producer b.data master)
  | .consumerWord => s.snoopBeat b (.consumer b.data)
  | .ordinary => ⟨s, b, none, none⟩
  | .outside => ⟨s, b, none, none⟩

/-- The check read covers this beat: a beat to a governed IN_SERVICE line cell (R6). Beats that the first step of R5
disposes of need none. -/
def State.needsCheck (s : State) (addr : Word) : Bool :=
  match regionOf s.shelf.bus.winsel addr with
  | .cell e slot =>
    e != 0 && s.governed e && !s.isAdopting && !s.inIntake e && (s.grid e slot).state == .inService
  | .monitor _ _ _ => false
  | .sweepHeader _ => false
  | .producerWord => false
  | .consumerWord => false
  | .ordinary => false
  | .outside => false

/-- A beat to the monitor table or a sweep header by a master other than the scanner (R13). -/
def State.isForeign (s : State) (master : BitVec 4) (addr : Word) : Bool :=
  master != s.cfg.node.scanner &&
    match regionOf s.shelf.bus.winsel addr with
    | .monitor _ _ _ => true
    | .sweepHeader _ => true
    | .cell _ _ => false
    | .producerWord => false
    | .consumerWord => false
    | .ordinary => false
    | .outside => false

/-- A beat whose judgement may turn on what the beats before it leave beside their own cells: one that would light a governed
FREE line cell, with a node ID and with a head slot free, of which a LIGHT request comes unless they take the last (R8). -/
def State.needsOrder (s : State) (addr : Word) (b : WriteBeat) : Bool :=
  match regionOf s.shelf.bus.winsel addr with
  | .cell e slot =>
    e != 0 && s.governed e && !s.isAdopting && !s.inIntake e && (s.grid e slot).state == .free
      && cellLit (rewriteCell b.data) && s.cfg.node.nodeId != 0 && s.headSlotFree
  | .monitor _ _ _ => false
  | .sweepHeader _ => false
  | .producerWord => false
  | .consumerWord => false
  | .ordinary => false
  | .outside => false

/-- A whole beat that is not judged until the check read is answered: one that the check read covers, and, so that the beats
are judged in beat order, one that would light a FREE line cell after such a beat (R6). -/
def State.beatWaits (s : State) (after : Bool) (addr : Word) (b : WriteBeat) : Bool :=
  b.whole && (s.needsCheck addr || (after && s.needsOrder addr b))

/-- A beat judged at the grant, unless it waits for the check read's answer; `after` says that a beat before it waits (R6). -/
def State.grantBeat (s : State) (master : BitVec 4) (after : Bool) (addr : Word) (b : WriteBeat) : State × FwdBeat :=
  if s.beatWaits after addr b then (s, ⟨addr, b, none, s.needsCheck addr, none, none⟩)
  else
    let v := s.judgeBeat master addr b none
    (v.state, ⟨addr, b, some v.out, s.needsCheck addr, v.report, v.snoop⟩)

/-- The beats of a burst judged at the grant, in beat order, each seeing what those before it left (R6). -/
def State.grantBeats (s : State) (master : BitVec 4) (after : Bool) : List (Word × WriteBeat) → State × List FwdBeat
  | [] => (s, [])
  | (a, b) :: rest =>
    let x := s.grantBeat master after a b
    let y := x.1.grantBeats master (after || x.2.out.isNone) rest
    (y.1, x.2 :: y.2)

/-- A beat that waited is judged by the state of its cell's grid entry at the grant (R6): IN_SERVICE where the check read covers
it, against its word, or READ_ERROR where there is none (R9); else FREE (R8). A beat to an L cell never waits. What lies
between the grant and the answer, as a head slot that a job's end frees, is log entry 9's. -/
def State.judgeWaiting (s : State) (master : BitVec 4) (f : FwdBeat) (word : Option Word) : Verdict :=
  match regionOf s.shelf.bus.winsel f.addr with
  | .cell 0 _ => ⟨s, f.written, none, none⟩
  | .cell e slot =>
    if f.checked then
      match word with
      | none => s.intercept e slot .readError master f.written
      | some w => s.judgeService e slot master f.written w
    else s.judgeFree e slot master f.written
  | .monitor _ _ _ => ⟨s, f.written, none, none⟩
  | .sweepHeader _ => ⟨s, f.written, none, none⟩
  | .producerWord => ⟨s, f.written, none, none⟩
  | .consumerWord => ⟨s, f.written, none, none⟩
  | .ordinary => ⟨s, f.written, none, none⟩
  | .outside => ⟨s, f.written, none, none⟩

/-- The beats that waited for the check read judged with its words, in beat order: one word for each beat it covers, none for
the others, or none at all for ERROR (R6, R9). -/
def State.checkBeats (s : State) (master : BitVec 4) : List FwdBeat → Option (List Word) → State × List FwdBeat
  | [], _ => (s, [])
  | f :: rest, ws =>
    let word := if f.checked then ws.bind List.head? else none
    let ws := if f.checked then ws.map List.tail else ws
    match f.out with
    | some _ =>
      let y := s.checkBeats master rest ws
      (y.1, f :: y.2)
    | none =>
      let v := s.judgeWaiting master f word
      let y := v.state.checkBeats master rest ws
      (y.1, { f with out := some v.out, report := v.report, snoop := v.snoop } :: y.2)

/-- The reports of a judged burst, in beat order (R11). -/
def FwdWrite.reports (f : FwdWrite) : List Event := f.beats.filterMap FwdBeat.report

/-- FOREIGN_MONITOR_WRITE of a transaction: its master, the word address of its first such beat, and their number (R13,
section 12.2). -/
def State.foreignEvent (s : State) (f : FwdWrite) : Option Event :=
  match f.foreignBeats with
  | [] => none
  | a :: rest =>
    some
      { s.event .foreignMonitorWrite with
        value1 := packWord [⟨f.txn.master.toNat, 0, 4⟩, ⟨rest.length + 1, 16, 5⟩]
        value2 := a }

/-- The block that owns a snooped word takes its value (R13, R14). -/
def State.takeSnoop (s : State) : Snoop → State
  | .reading d dir slot w => s.snoopReading d dir slot w
  | .header d n => s.sweepHeader d n
  | .producer v m => s.producerValue v m
  | .consumer v =>
    if s.shelf.rw.takesConsumer v.toNat then { s with shelf.rw.consumer := v.toNat } else s

end Sys2Proof.Machine
end

