-- ==== Sys2Proof/Machine/Bus.lean ====
section
/-! DEFINITION. The commands of the bus: upstream transactions, grants of the downstream port, and the answers to forwarded
transactions (chapter 1). -/

namespace Sys2Proof.Machine

/-- The bus changed. -/
def State.updBus (s : State) (f : BusInterposer → BusInterposer) : State := { s with shelf.bus := f s.shelf.bus }

/-! ## UPSTREAM_TRANSACTION (R1) -/

/-- BI takes a transaction that a master offers: it is accepted while BI holds fewer than 4, and waits at the port
otherwise, as it does during reset (R1, R23). A transaction accepted into an empty class (b) is its head (R16). -/
def BusInterposer.offer (b : BusInterposer) (t : UpTxn) (inReset : Bool) : BusInterposer :=
  if inReset || acceptLimit ≤ b.held then { b with offers := b.offers ++ [t] }
  else
    let c := { b with accepted := b.accepted ++ [t] }
    if b.accepted = [] ∧ b.port.isForwarded = false then c.newHead else c

/-- UPSTREAM_TRANSACTION (R1). -/
def execUpstreamTransaction (t : UpTxn) (s : State) : Result :=
  guarded (.upstreamTransaction t) (occur s fun s => s.updBus fun b => b.offer t (s.mode == .inReset))

/-! ## Grants of class (b) (R6, R17, R20) -/

/-- A part access as it stands on the downstream port: in the window, with the parts' master ID, every byte enable of a
write on (R2). -/
def PartReq.issued (r : PartReq) (winsel : BitVec 4) : UpTxn :=
  ⟨windowBase winsel + BitVec.ofNat 32 r.offset, partMaster,
    match r.data with
    | some w => .write [⟨w, 0b1111⟩]
    | none => .read r.beats⟩

/-- A forwarded write as it stands on the downstream port: the master's ID, address and length, each beat as judged (R1). -/
def FwdWrite.issued (f : FwdWrite) : UpTxn :=
  { f.txn with burst := .write (f.beats.map fun b => b.out.getD b.written.dropped) }

/-- The transaction that stands on the downstream port (R1, R2, R23). The manual gives the check read no form (log entry 27). -/
def BusInterposer.downstream (b : BusInterposer) : Option UpTxn :=
  match b.port with
  | .idle => none
  | .checkRead _ => none
  | .write f => some f.issued
  | .read t => some t
  | .part r => some (r.issued b.winsel)
  | .ending t => some t

/-- Class (b)'s head takes the port (R19, R20). -/
def BusInterposer.grantForwarded (b : BusInterposer) (p : Port) : BusInterposer :=
  { b with accepted := b.accepted.tail, headWaits := [], port := p, bGrants := b.countAfterB }

/-- The judged burst's reports are submitted, and the port passes to its writes (R6, R11). -/
def State.issueWrite (s : State) (f : FwdWrite) : State :=
  (s.updBus fun b => { b with port := .write f }).reportAll f.reports

/-- A forwarded write transaction is granted: its beats are judged, and it passes to its check read, where it needs one,
or to its writes (R6). -/
def State.grantWrite (s : State) (t : UpTxn) (bs : List WriteBeat) : State :=
  let s := s.updBus fun b => b.grantForwarded .idle
  let addrs := beatAddrs t
  let foreign := addrs.filter (s.isForeign t.master)
  let x := s.grantBeats t.master false (List.zip addrs bs)
  let f : FwdWrite := ⟨t, x.2, foreign⟩
  if f.beats.any FwdBeat.checked then x.1.updBus fun b => { b with port := .checkRead f } else x.1.issueWrite f

/-- FORWARDED_WRITE_GRANT (R6). -/
def execForwardedWriteGrant (s : State) : Result :=
  match s.shelf.bus.choice with
  | some (.forwarded t) =>
    match t.burst with
    | .write bs => occur s fun s => s.grantWrite t bs
    | .read _ => .refused .noGrantDue
  | some (.part _) => .refused .noGrantDue
  | none => .refused .noGrantDue

/-- The number of words a check read returns. -/
def FwdWrite.checkWords (f : FwdWrite) : Nat := (f.beats.filter FwdBeat.checked).length

/-- The check read's answer judges the beats that waited for it (R6, R9). -/
def State.checkAnswered (s : State) (f : FwdWrite) (answer : Option (List Word)) : State :=
  let x := s.checkBeats f.txn.master f.beats answer
  x.1.issueWrite { f with beats := x.2 }

/-- CHECK_READ_ANSWER (R6). -/
def execCheckReadAnswer (answer : Option (List Word)) (s : State) : Result :=
  guarded (.checkReadAnswer answer)
    (match s.shelf.bus.port with
    | .checkRead f =>
      if (answer.map List.length).getD f.checkWords = f.checkWords then occur s fun s => s.checkAnswered f answer
      else .refused .answerShape
    | .idle => .refused .noAnswerDue
    | .write _ => .refused .noAnswerDue
    | .read _ => .refused .noAnswerDue
    | .part _ => .refused .noAnswerDue
    | .ending _ => .refused .noAnswerDue)

/-- A transaction includes the word at this offset of the window. -/
def BusInterposer.includes (b : BusInterposer) (t : UpTxn) (o : Nat) : Bool :=
  (beatAddrs t).any fun a => windowOffset b.winsel a == some o

/-- A granted read opens the hold, where it is closed, of every record whose first word it includes (R17). -/
def BusInterposer.openHolds (b : BusInterposer) (t : UpTxn) (now : Clock) : BusInterposer :=
  { b with
    holds := b.holds.mapIdx fun r h => if h.opened.isNone && b.includes t (holdBase r) then ⟨some now, []⟩ else h }

/-- FORWARDED_READ_GRANT (R17). -/
def execForwardedReadGrant (s : State) : Result :=
  match s.shelf.bus.choice with
  | some (.forwarded t) =>
    match t.burst with
    | .read _ => occur s fun s => s.updBus fun b => (b.grantForwarded (.read t)).openHolds t s.clock
    | .write _ => .refused .noGrantDue
  | some (.part _) => .refused .noGrantDue
  | none => .refused .noGrantDue

/-! ## FORWARDED_TRANSACTION_COMPLETE (R13) -/

/-- A completed read closes the hold of every record whose last word it includes (R17, R18). -/
def BusInterposer.closeRead (b : BusInterposer) (t : UpTxn) : BusInterposer :=
  (List.range Config.holdRecords).foldl (fun b r => if b.includes t (holdLast r) then b.closeHold r else b) b

/-- The forwarded transaction's answer is returned upstream and the port is free (R1). -/
def BusInterposer.complete (b : BusInterposer) (t : UpTxn) (data : Option (List Word)) : BusInterposer :=
  { b with port := .idle, answers := b.answers ++ [⟨t, data⟩] }

/-- After a completion waiting masters are accepted, and class (b)'s head has just reached it (R1, R16). -/
def State.nextForwarded (s : State) : State := s.updBus fun b => b.admitOffers.newHead

/-- A forwarded write is answered: on OK the snoops are taken in beat order, and a foreign monitor write is reported (R13,
R14, R21). -/
def State.writeComplete (s : State) (f : FwdWrite) (ok : Bool) : State :=
  let s := s.updBus fun b => b.complete f.txn (if ok then some [] else none)
  if ok then
    let s := (f.beats.filterMap FwdBeat.snoop).foldl State.takeSnoop s
    (s.reportAll (s.foreignEvent f).toList).nextForwarded
  else s.nextForwarded

/-- A forwarded read is answered (R1, R17). -/
def State.readComplete (s : State) (t : UpTxn) (data : Option (List Word)) : State :=
  (s.updBus fun b => (b.complete t data).closeRead t).nextForwarded

/-- The answer to a write that a reset cut off: its transaction was answered ERROR when the reset began, and no snoop is taken,
so the port is free and nothing else happens (R23). -/
def State.endingComplete (s : State) : State := s.updBus fun b => { b with port := .idle }

/-- FORWARDED_TRANSACTION_COMPLETE (R13). -/
def execForwardedTransactionComplete (ok : Bool) (data : List Word) (s : State) : Result :=
  guarded (.forwardedTransactionComplete ok data)
    (match s.shelf.bus.port with
    | .write f => if data = [] then occur s fun s => s.writeComplete f ok else .refused .answerShape
    | .read t =>
      if data.length = (if ok then t.burst.length else 0) then
        occur s fun s => s.readComplete t (if ok then some data else none)
      else .refused .answerShape
    | .ending _ => if data = [] then occur s State.endingComplete else .refused .answerShape
    | .idle => .refused .noAnswerDue
    | .checkRead _ => .refused .noAnswerDue
    | .part _ => .refused .noAnswerDue)

/-! ## PART_ACCESS_GRANT (R19) -/

/-- A part access is issued: it leaves its class and takes the port, and a head that waits for it waits no more (R16, R19,
R20). -/
def BusInterposer.grantPart (b : BusInterposer) (r : PartReq) : BusInterposer :=
  { b with
    parts := b.parts.erase r
    port := .part r
    headWaits := if r.data.isSome then b.headWaits.filter (· != r.offset) else b.headWaits
    bGrants := b.countAfterPart r }

/-- PART_ACCESS_GRANT (R19). -/
def execPartAccessGrant (s : State) : Result :=
  match s.shelf.bus.choice with
  | some (.part r) => occur s fun s => s.updBus fun b => b.grantPart r
  | some (.forwarded _) => .refused .noGrantDue
  | none => .refused .noGrantDue

/-! ## READ_HOLD_EXPIRY (R17) -/

/-- The hold of record r is open and 50 µs have passed from its opening (R17). -/
def State.holdDue (s : State) (r : Nat) : Bool :=
  match (s.shelf.bus.holds.get r).opened with
  | some t => readHoldMicros ≤ s.clock.microsSince t
  | none => false

/-- READ_HOLD_EXPIRY (R17): a hold that has closed does not expire. -/
def execReadHoldExpiry (r : Nat) (s : State) : Result :=
  guarded (.readHoldExpiry r)
    (if s.holdDue r then occur s fun s => s.updBus fun b => b.closeHold r else .next s)

end Sys2Proof.Machine
end

