-- ==== Sys2Proof/Machine/Resets.lean ====
section
/-! DEFINITION. The two resets and their end (00_scope.md section 7, R23, R24, R182). -/

namespace Sys2Proof.Machine

/-- The transactions BI accepted and has not completed, the one in progress first (R1, R23). -/
def BusInterposer.uncompleted (b : BusInterposer) : List UpTxn :=
  let inProgress :=
    match b.port with
    | .checkRead f => [f.txn]
    | .write f => [f.txn]
    | .read t => [t]
    | .idle => []
    | .part _ => []
    | .ending _ => []
  inProgress ++ b.accepted

/-- A write transaction that a reset cuts off after its first k beats: those that remain are issued with their byte enables off
(R23). -/
def FwdWrite.cut (f : FwdWrite) (k : Nat) : UpTxn :=
  { f.txn with
    burst := .write ((f.beats.take k).map (fun b => b.out.getD b.written.dropped)
      ++ (f.beats.drop k).map fun b => b.written.dropped) }

/-- The downstream transaction in progress when a reset begins: a write is ended, none of the beats of one still at its check
read having been issued; a read's data, and what a part access asked, is discarded (R23). Log entry 27. -/
def Port.resetBegins (p : Port) (issued : Nat) : Port :=
  match p with
  | .idle => .idle
  | .checkRead f => .ending (f.cut 0)
  | .write f => .ending (f.cut issued)
  | .read _ => .idle
  | .part _ => .idle
  | .ending t => .ending t

/-- The bus when a reset begins: accepted transactions are answered ERROR, part requests and holds are discarded; masters
that wait at the port wait on; a write in progress is ended (R23). The straps stay latched until the end of the reset (R3). -/
def BusInterposer.resetBegins (b : BusInterposer) : BusInterposer :=
  { winsel := b.winsel
    offers := b.offers
    accepted := []
    headWaits := []
    port := b.port.resetBegins (Config.issuedBeats b.answers.length)
    parts := []
    bGrants := 0
    holds := Table.fill Config.holdRecords ⟨none, []⟩
    answers := b.answers ++ b.uncompleted.map fun t => ⟨t, none⟩ }

/-- The Report Writer after either reset (R172, R179). -/
def ReportWriter.afterReset : ReportWriter := ⟨0, 0, 0, [], none, Table.fill Config.statusRecords ⟨0, none⟩⟩

/-- A link while a reset lasts: it neither sends nor takes a frame (R162). That it is DISABLED with count 0 until the reset's
end, when R162 gives its record, is log entry 28's. -/
def Link.silent : Link := ⟨.disabled, none, none, [], .unknown, 0⟩

/-- A reset begins (R23): all work in flight is cleared. A power-on reset returns the configuration to its defaults and
the consumer index to 0; RESETN keeps both (R57, R61, R64, R67, R69, R71). -/
def State.resetBegins (s : State) (kind : ResetKind) : State :=
  let consumer := if kind = .powerOn then 0 else s.ord.consumer
  { pending := s.pending
    mode := .inReset
    lastReset := kind
    clock := s.clock
    shelf := ⟨s.shelf.bus.resetBegins, ReportWriter.afterReset⟩
    msu := ⟨Table.fill Config.snapEntries SnapEntry.afterReset, Table.fill Config.degrees none⟩
    cg :=
      ⟨Table.fill Config.gridEntries GridEntry.freeEntry, Table.fill Config.gridEntries .unread,
       Table.fill Config.degrees none, Table.fill Config.degrees false⟩
    ord := ⟨consumer, consumer, none, .waiting⟩
    cfg := if kind = .powerOn then Settings.por else s.cfg
    pa := ⟨Table.fill Config.entries none, []⟩
    gates := Table.fill Config.gates none
    jobs := Table.fill Config.jobs none
    slc := ⟨Table.fill Config.degrees Link.silent, none⟩
    adoption := ⟨0, false⟩
    sent := s.sent
    marks := Marks.none }

/-- POWER_ON_RESET (R23). -/
def execPowerOnReset (s : State) : Result := .next (s.resetBegins .powerOn)

/-- RESETN_ASSERTED (R23). While a reset is in progress, of either kind, there is nothing left to clear. -/
def execResetnAsserted (s : State) : Result :=
  if s.mode = .inReset then .next s else .next (s.resetBegins .resetn)

/-- The link of a degree at the end of a reset (R162). -/
def linkAtEnd (mask : BitVec 4) (d : Nat) : Link := if maskHas mask d then Link.started else Link.silent

/-- The cells that adoption reads, in ascending cell address (R183). -/
def governedCells (mask : BitVec 4) : List (Nat × Nat) :=
  ([0, 1, 2, 3, 4].filter fun e => e == 0 || maskHas mask e).flatMap fun e =>
    (List.range Config.slots).map fun slot => (e, slot)

/-- The class (d) read of a cell. -/
def cellRead (e slot : Nat) (p : Purpose) : PartReq := ⟨.d, cellOffset e slot, 1, none, p, []⟩

/-- The end of a reset, before adoption's requests: the time base starts, the straps are latched, the port is free and
accepts, the links restart, and the cells to be settled are unread (R3, R24, R162, R182). -/
def State.resetEnds (s : State) (straps : BitVec 4) : State :=
  let mask := s.cfg.node.equipped
  { s with
    mode := .adopting
    clock := ⟨0, 0⟩
    shelf.bus := { s.shelf.bus with winsel := straps, port := .idle }.admitOffers.newHead
    cg.settlements :=
      s.cg.settlements.mapIdx fun i _ => if i / 96 = 0 ∨ maskHas mask (i / 96) then .unread else .settled
    slc :=
      ⟨⟨[linkAtEnd mask 1, linkAtEnd mask 2, linkAtEnd mask 3, linkAtEnd mask 4], rfl⟩, none⟩
    adoption := ⟨mask, false⟩ }

/-- The first requests of adoption, in order: the node status update, the header writes, the producer word's read, the
cell reads (R182). -/
def State.beginAdoption (s : State) : State :=
  let s := { s with shelf := s.shelf.statusUpdate 0 s.nodeContent }
  let s := [producerOffset, consumerOffset, dropOffset].foldl
    (fun s o => { s with shelf := s.shelf.writeWord o 0 .header }) s
  let s := s.produce ⟨.d, orderProducerOffset, 1, none, .producerWord, []⟩
  (governedCells s.adoption.equipped).foldl (fun s x => s.produce (cellRead x.1 x.2 (.adoptCell x.1 x.2))) s

/-- RESET_END (R182). -/
def execResetEnd (straps : BitVec 4) (s : State) : Result :=
  if s.mode = .inReset then .next (s.resetEnds straps).beginAdoption else .refused .noResetInProgress

end Sys2Proof.Machine
end

