-- ==== Sys2Proof/Machine/Answers.lean ====
section
/-! DEFINITION. Memory's answers to the part accesses of PA, RC and RW (R22, R46, R142, R174). -/

namespace Sys2Proof.Machine

/-- The answer to a part access frees the port. -/
def State.freePort (s : State) : State := s.updBus fun b => { b with port := .idle }

/-- The grid entry of a closing participation at its BLOCK write's answer (R46, R47). -/
def State.closeGrid (s : State) (x : Participation) (ok : Bool) : State :=
  if x.orphaned then s.quarantine x.egress x.slot .orphan (some x.key)
  else if ok then s.setGrid x.egress x.slot GridEntry.freeEntry
  else s.quarantine x.egress x.slot .setpointFault (some x.key)

/-- A closing BLOCK write is answered: its entry leaves its owner, the participation is freed, and an aborting job ends
(R46, R150, R152). -/
def State.closingAnswered (s : State) (p : Nat) (ok : Bool) : State :=
  match s.entry p with
  | none => s
  | some x =>
    let s := if ok then s else s.setpointFault x.key x.egress x.slot
    let s := (s.closeGrid x ok).freeParticipation p
    if x.role.isTransitOrTail then s
    else
      match s.jobOfKey x.key with
      | none => s
      | some job => s.endJob job.number ⟨job.abortOutcome, (s.grid x.egress x.slot).state⟩

/-- The answer to a commit write, for its job: a LOCAL job ends at it, and either kind at an ERROR (R147, R148). -/
def State.commitJobAnswered (s : State) (key : JobKey) (ok : Bool) : State :=
  match s.jobOfKey key with
  | none => s
  | some x =>
    if x.phase ≠ .committing then s
    else if !ok then s.endJob x.number ⟨.commitFault, .inService⟩
    else if x.isPath then s
    else s.endJob x.number ⟨.committed, .inService⟩

/-- The answer to a restore write, for its job, whose participation was freed at that write: it ends, its cell in service
(R152). -/
def State.restoreJobAnswered (s : State) (key : JobKey) : State :=
  match s.jobOfKey key with
  | none => s
  | some x => if x.entry.isNone then s.endJob x.number ⟨x.abortOutcome, .inService⟩ else s

/-- The requester of a write that another replaced hears the other's answer, OK or ERROR (R16, R22). Jobs that end at that
answer end. The error of a step, backoff, unwind or route write that was replaced is that of the write which replaced it and
of nothing else (R87, R142), and is reported once, for that write (log entry 11). -/
def State.replacedAnswered (ok : Bool) (s : State) : Purpose → State
  | .commit key => s.commitJobAnswered key ok
  | .restore key => s.restoreJobAnswered key
  | .closing p => s.closingAnswered p ok
  | .step _ => s
  | .route _ _ => s
  | .record => { s with shelf := s.shelf.recordAnswer ok }
  | .header => s
  | .status => s
  | .orderLower => s
  | .orderUpper => s
  | .producerWord => s
  | .adoptCell _ _ => s
  | .intakeCell _ _ _ => s

/-- Memory answers the part access that holds the port, OK or ERROR: `f` says what its answer does, where the access is of the
kind that the command answers; the requesters of the writes it replaced hear it too (R16). -/
def answerPart (s : State) (ok : Bool) (f : PartReq → Option (State → State)) : Result :=
  match s.shelf.bus.port with
  | .part r =>
    match f r with
    | some g => occur s fun s => r.replaced.foldl (State.replacedAnswered ok) (g s.freePort)
    | none => .refused .noAnswerDue
  | .idle => .refused .noAnswerDue
  | .checkRead _ => .refused .noAnswerDue
  | .write _ => .refused .noAnswerDue
  | .read _ => .refused .noAnswerDue
  | .ending _ => .refused .noAnswerDue

/-- The egress of the cell at an offset. -/
def PartReq.egress (r : PartReq) : Nat := r.offset / 4 / 96
/-- The slot of the cell at an offset. -/
def PartReq.slot (r : PartReq) : Nat := r.offset / 4 % 96

/-! ## BLOCK_WRITE_ANSWER (R46, R47) -/

/-- BLOCK_WRITE_ANSWER (R46). -/
def execBlockWriteAnswer (ok : Bool) (s : State) : Result :=
  answerPart s ok fun r =>
    match r.purpose with
    | .closing p => some fun s => s.closingAnswered p ok
    | _ => none

/-! ## STEP_WRITE_ANSWER, COMMIT_WRITE_ANSWER, RESTORE_WRITE_ANSWER (R142, R147, R148, R152) -/

/-- A step, backoff or unwind write is answered: an ERROR is reported, and a job still live takes an emergency abort
(R142). -/
def State.stepAnswered (s : State) (key : JobKey) (e slot : Nat) (ok : Bool) : State :=
  if ok then s
  else
    let s := s.setpointFault key e slot
    match s.jobOfKey key with
    | some x => s.emergencyAbort x.number .setpointFault 0 .none
    | none => s

/-- STEP_WRITE_ANSWER (R142). -/
def execStepWriteAnswer (ok : Bool) (s : State) : Result :=
  answerPart s ok fun r =>
    match r.purpose with
    | .step key => some fun s => s.stepAnswered key r.egress r.slot ok
    | _ => none

/-- A commit write is answered (R147, R148). -/
def State.commitAnswered (s : State) (key : JobKey) (e slot : Nat) (ok : Bool) : State :=
  (if ok then s else s.setpointFault key e slot).commitJobAnswered key ok

/-- COMMIT_WRITE_ANSWER (R147, R148). -/
def execCommitWriteAnswer (ok : Bool) (s : State) : Result :=
  answerPart s ok fun r =>
    match r.purpose with
    | .commit key => some fun s => s.commitAnswered key r.egress r.slot ok
    | _ => none

/-- A restore write is answered: the RAISE job ends, its cell in service (R152). -/
def State.restoreAnswered (s : State) (key : JobKey) (e slot : Nat) (ok : Bool) : State :=
  (if ok then s else s.setpointFault key e slot).restoreJobAnswered key

/-- RESTORE_WRITE_ANSWER (R152). -/
def execRestoreWriteAnswer (ok : Bool) (s : State) : Result :=
  answerPart s ok fun r =>
    match r.purpose with
    | .restore key => some fun s => s.restoreAnswered key r.egress r.slot ok
    | _ => none

/-! ## ROUTE_WRITE_ANSWER (R87) -/

/-- The write that opened a route is answered: an ERROR is reported and raises an ALARM, unless the participation is
closing (R87, R94). -/
def State.routeAnswered (s : State) (p : Nat) (key : JobKey) (e slot : Nat) (ok : Bool) : State :=
  if ok then s
  else
    match s.entry p with
    | some x =>
      if x.key = key then
        if x.closing then s else (s.setpointFault key e slot).raiseAlarm p .setpointFault
      else s.setpointFault key e slot
    | none => s.setpointFault key e slot

/-- ROUTE_WRITE_ANSWER (R87). -/
def execRouteWriteAnswer (ok : Bool) (s : State) : Result :=
  answerPart s ok fun r =>
    match r.purpose with
    | .route p key => some fun s => s.routeAnswered p key r.egress r.slot ok
    | _ => none

/-! ## RW's writes (R22, R174) -/

/-- REPORT_RECORD_WRITE_ANSWER: the answer to one of a record's eight writes (R174). -/
def execReportRecordWriteAnswer (ok : Bool) (s : State) : Result :=
  answerPart s ok fun r =>
    match r.purpose with
    | .record => some fun s => { s with shelf := s.shelf.recordAnswer ok }
    | _ => none

/-- REPORT_HEADER_WRITE_ANSWER: OK or ERROR, the write is not repeated (R22, R172). -/
def execReportHeaderWriteAnswer (ok : Bool) (s : State) : Result :=
  answerPart s ok fun r =>
    match r.purpose with
    | .header => some fun s => s
    | _ => none

/-- STATUS_WRITE_ANSWER: OK or ERROR, the write is not repeated, and RW counts the word as written (R22, R179). -/
def execStatusWriteAnswer (ok : Bool) (s : State) : Result :=
  answerPart s ok fun r =>
    match r.purpose with
    | .status => some fun s => s
    | _ => none

end Sys2Proof.Machine
end

