-- ==== Sys2Proof/Machine/Monitor.lean ====
section
/-! DEFINITION. The commands of adoption, of the snapshot, of the measurement service and of the drift watch (chapters 2, 3
and 11). -/

namespace Sys2Proof.Machine

/-! ## PRODUCER_WORD_READ_ANSWER (R61) -/

/-- ORDERS_DISCARDED with its count and the held index (R61, R74). -/
def State.discardedEvent (s : State) (value : Nat) : Event :=
  { s.event .ordersDiscarded with
    value1 := BitVec.ofNat 32 ((value + orderSlots - s.ord.consumer) % orderSlots)
    value2 := BitVec.ofNat 32 s.ord.consumer }

/-- OR sets its consumer index and its target; after RESETN a value that differs from the held index is reported (R61). Where
that RESETN cut off the adoption of a power-on reset, the held index is the 0 of that reset (log entry 28). -/
def State.takeProducerWord (s : State) (answer : Option Word) : State :=
  let s := { s with adoption.producerRead := true }
  match answer with
  | none => s
  | some w =>
    let v := w.toNat % orderSlots
    let s := if s.lastReset = .resetn ∧ v ≠ s.ord.consumer then s.report (s.discardedEvent v) else s
    { s with ord.consumer := v, ord.target := v }

/-- PRODUCER_WORD_READ_ANSWER (R61). -/
def execProducerWordReadAnswer (answer : Option Word) (s : State) : Result :=
  answerPart s answer.isSome fun r =>
    match r.purpose with
    | .producerWord => some fun s => (s.takeProducerWord answer).checkAdopted
    | _ => none

/-! ## Cell reads and settle deadlines (R183, R184, R55) -/

/-- ADOPTION_CELL_READ_ANSWER (R183). -/
def execAdoptionCellReadAnswer (answer : Option Word) (s : State) : Result :=
  answerPart s answer.isSome fun r =>
    match r.purpose with
    | .adoptCell e slot => some fun s => (s.cellAnswer e slot s.adoption.equipped answer).checkAdopted
    | _ => none

/-- INTAKE_CELL_READ_ANSWER (R55): the answer of a read that a removed degree left outstanding is discarded (R54). -/
def execIntakeCellReadAnswer (answer : Option Word) (s : State) : Result :=
  answerPart s answer.isSome fun r =>
    match r.purpose with
    | .intakeCell d slot discarded =>
      some fun s => if discarded then s else (s.cellAnswer d slot s.cfg.node.equipped answer).checkIntake d
    | _ => none

/-- Cell (e, slot) still waits and its settle deadline is reached (R184). -/
def State.settleDue (s : State) (e slot : Nat) : Bool :=
  match s.settlement e slot with
  | .waiting w => w.deadline.due s.now
  | .unread => false
  | .settled => false

/-- ADOPTION_SETTLE_DEADLINE (R184). -/
def execAdoptionSettleDeadline (e slot : Nat) (s : State) : Result :=
  guarded (.adoptionSettleDeadline e slot)
    (if s.isAdopting && s.settleDue e slot then occur s fun s => (s.settleByDeadline e slot).checkAdopted else .next s)

/-- INTAKE_SETTLE_DEADLINE (R55). -/
def execIntakeSettleDeadline (d slot : Nat) (s : State) : Result :=
  guarded (.intakeSettleDeadline d slot)
    (if s.inIntake d && s.settleDue d slot then occur s fun s => (s.settleByDeadline d slot).checkIntake d else .next s)

/-! ## ENTRY_EXPIRED (R28) -/

/-- 6000 ms have passed since the entry's snoop time and it is not yet marked (R28). -/
def State.entryDue (s : State) (d : Nat) (dir : Dir) (slot : Nat) : Bool :=
  match (s.snap d dir slot).snoop with
  | some t => !(s.snap d dir slot).expired && (Timer.due ⟨t, entryLife⟩ s.now)
  | none => false

/-- The entry is marked expired (R28). -/
def State.expireEntry (s : State) (d : Nat) (dir : Dir) (slot : Nat) : State :=
  s.setSnap d dir slot { s.snap d dir slot with expired := true }

/-- ENTRY_EXPIRED (R28). -/
def execEntryExpired (d : Nat) (dir : Dir) (slot : Nat) (s : State) : Result :=
  guarded (.entryExpired d dir slot)
    (if s.entryDue d dir slot then occur s fun s => s.expireEntry d dir slot else .next s)

/-! ## MEASUREMENT_DEADLINE (R34) -/

/-- Participation p has a pending measurement whose deadline is reached (R34). -/
def State.measurementDue (s : State) (p : Nat) : Bool :=
  match (s.entry p).bind Participation.measurement with
  | some m => m.deadline.due s.now
  | none => false

/-- MEASUREMENT_DEADLINE (R34). -/
def execMeasurementDeadline (p : Nat) (s : State) : Result :=
  guarded (.measurementDeadline p)
    (if s.measurementDue p then occur s fun s => s.deliver p MeasureResult.unmeasured else .next s)

/-! ## DRIFT_WATCH_EXPIRY (R49, R50) -/

/-- A report of the drift watch: the level read, and the commit level (R50, section 12.2). -/
def State.driftEvent (s : State) (k : EventKind) (d slot : Nat) (level commit : Option Int) : Event :=
  { s.slotEvent k d slot with value1 := levelValue level, value2 := levelValue commit }

/-- The drift watch judges entry (d, slot) (R50). -/
def State.watchSlot (s : State) (d slot : Nat) : State :=
  let g := s.grid d slot
  if g.state = .inService then
    let r := s.reading d .outward slot
    let v := driftVerdict (s.degree d).driftLimit r g
    let s := s.setGrid d slot v.entry
    match v.report with
    | some k => s.report (s.driftEvent k d slot r.level v.entry.commitLevel)
    | none => s
  else s

/-- The watch timer of degree d has reached its length. -/
def State.watchDue (s : State) (d : Nat) : Bool :=
  match s.watch d with
  | some t => t.due s.now
  | none => false

/-- The timer runs on from the interval that has passed, and every entry of d is judged, in ascending slot order (R49,
R50). -/
def State.watchExpires (s : State) (d : Nat) : State :=
  let s := s.setWatch d ((s.watch d).map fun t => ⟨t.start + BitVec.ofNat 32 t.length, t.length⟩)
  (List.range Config.slots).foldl (fun s slot => s.watchSlot d slot) s

/-- DRIFT_WATCH_EXPIRY (R50). -/
def execDriftWatchExpiry (d : Nat) (s : State) : Result :=
  guarded (.driftWatchExpiry d) (if s.watchDue d then occur s fun s => s.watchExpires d else .next s)

end Sys2Proof.Machine
end

