-- ==== Sys2Proof/Machine/Orders.lean ====
section
/-! DEFINITION. The orders (chapter 4): the reads of the ring, and the nine kinds, each judged at the answer to the second
read. -/

namespace Sys2Proof.Machine

/-! ## The reads (R59, R60) -/

/-- An order read answered ERROR: ORDER_REFUSED(READ_ERROR), and the consumer index advances (R59, R60). The report shows no
egress and no slot, whatever a lower half names (log entry 28). -/
def State.readError (s : State) (kind : Nat) (tag : Word) : State :=
  (s.orderRefused .readError ⟨kind, tag, none, none, 0⟩).orderEnded

/-- The lower read is answered: on OK the upper half is read, on ERROR the order is refused with tag 0 (R59). -/
def State.lowerAnswered (s : State) (answer : Option (List Word)) : State :=
  match answer with
  | none => s.readError 0 0
  | some ws =>
    { s with ord.reader := .readingUpper ws }.produce ⟨.d, orderOffset s.ord.consumer + 64, 16, none, .orderUpper, []⟩

/-- ORDER_LOWER_READ_ANSWER (R59). -/
def execOrderLowerReadAnswer (answer : Option (List Word)) (s : State) : Result :=
  guarded (.orderLowerReadAnswer answer)
    (answerPart s answer.isSome fun r =>
      match r.purpose with
      | .orderLower => some fun s => s.lowerAnswered answer
      | _ => none)

/-- The lower half that OR holds while the upper half is read. -/
def State.lowerHalf (s : State) : List Word :=
  match s.ord.reader with
  | .readingUpper ws => ws
  | .waiting => []
  | .idle => []
  | .readingLower => []

/-- ORDER_UPPER_READ_ERROR: the order is refused with the tag from its lower half (R59). -/
def execOrderUpperReadError (s : State) : Result :=
  answerPart s false fun r =>
    match r.purpose with
    | .orderUpper => some fun s => s.readError (orderKind s.lowerHalf) (orderTag s.lowerHalf)
    | _ => none

/-- The port holds the upper read of an order. -/
def State.upperDue (s : State) : Bool :=
  match s.shelf.bus.port with
  | .part r => r.purpose == .orderUpper
  | .idle => false
  | .checkRead _ => false
  | .write _ => false
  | .read _ => false
  | .ending _ => false

/-- The upper read is answered OK and the order is judged: `kind` is the command's, and `judge` makes the order's effect and
its outcome reports, after which the consumer index advances (R59, R60). -/
def orderCommand (i : Instr) (upper : List Word) (s : State) (kind : Nat → Bool) (judge : OrderRecord → State → State) :
    Result :=
  let record := s.lowerHalf ++ upper
  guarded i
    (if !s.upperDue then .refused .noAnswerDue
    else if kind (orderKind record) then occur s fun s => (judge record s.freePort).orderEnded
    else .refused .otherOrderKind)

/-- The outcome fields of an order that names no slot. -/
def plainFields (r : OrderRecord) (value2 : Word) : OutcomeFields := ⟨orderKind r, orderTag r, none, none, value2⟩

/-- BAD_KIND (R59). -/
def execBadKind (upper : List Word) (s : State) : Result :=
  orderCommand (.badKind upper) upper s (fun k => k = 0 || 9 < k) fun r s => s.orderRefused .badKind (plainFields r 0)

/-! ## TURN_UP (R62, R63, R83) -/

/-- The first index of a path below n whose entry is an offence. -/
def firstIndex (n : Nat) (p : Nat → Bool) : Option Nat := (List.range n).find? p

/-- The entry of a path list at an index. -/
def pathAt (path : List PathEntry) (i : Nat) : PathEntry := path.getD i default

/-- Check 3 of R62: the offending entry of a path whose L egress is not at its end alone. -/
def tailOffence (path : List PathEntry) : Option Nat :=
  let n := path.length
  match firstIndex (n - 1) fun i => (pathAt path i).egress == 0 with
  | some i => some i
  | none => if (pathAt path (n - 1)).egress = 0 then none else some (n - 1)

/-- Check 4 of R62: the first entry that is not well formed. -/
def formOffence (path : List PathEntry) : Option Nat :=
  firstIndex path.length fun i => !pathEntryOk i (pathAt path i)

/-- Check 5 of R62: the first entry whose node ID stands earlier in the path. -/
def loopOffence (path : List PathEntry) : Option Nat :=
  firstIndex path.length fun i => (path.take i).any fun e => e.node == (pathAt path i).node

/-- A refused check: its reason, and value 2 of ORDER_REFUSED (R62, R74). -/
structure Refused where
  reason : Cause
  value2 : Nat
deriving DecidableEq, Repr

/-- The checks of R62 on the form of the path, 1 to 5 (R62). -/
def State.pathRefusal (s : State) (o : TurnUpOrder) : Option Refused :=
  if o.hops < 2 ∨ 16 < o.hops then some ⟨.pathLength, 0⟩
  else if (pathAt o.path 0).node ≠ s.cfg.node.nodeId ∨ (pathAt o.path 0).ingress ≠ 0 then some ⟨.pathHead, 0⟩
  else
    match tailOffence o.path, formOffence o.path, loopOffence o.path with
    | some i, _, _ => some ⟨.pathTail, i⟩
    | none, some i, _ => some ⟨.pathForm, i⟩
    | none, none, some i => some ⟨.loop, i⟩
    | none, none, none => none

/-- The checks of R62 on this node's state, 6 to 12 (R62). -/
def State.headRefusal (s : State) (o : TurnUpOrder) (egress : Nat) : Option Refused :=
  if Config.slots ≤ o.slot then some ⟨.slot, 0⟩
  else if !s.isEquipped egress then some ⟨.degree, 0⟩
  else if s.cfg.node.nodeId = 0 then some ⟨.nodeUnset, 0⟩
  else if !s.headSlotFree then some ⟨.noEntry, 0⟩
  else if (s.grid egress o.slot).state ≠ .free then some ⟨.slotBusy, (s.grid egress o.slot).state.code⟩
  else if !s.isSettled egress then some ⟨.drifting, 0⟩
  else if (s.link egress).state ≠ .up then some ⟨.link, 0⟩
  else none

/-- The first check of R62 that a TURN_UP fails. -/
def State.turnUpRefusal (s : State) (o : TurnUpOrder) : Option Refused :=
  match s.pathRefusal o with
  | some x => some x
  | none => s.headRefusal o (pathAt o.path 0).egress.toNat

/-- The target of a TURN_UP held between the floor of the head egress and 2500 (R63). -/
def clampTarget (floor target : Nat) : Nat := if target < floor then floor else min attMax target

/-- The CLAIM a head sends: the job's parameters, its path, and the head's own hop record (R83). -/
def headClaim (node : BitVec 16) (x : Participation) : ClaimBody :=
  { slot := BitVec.ofNat 8 x.slot
    pilot := BitVec.ofNat 16 x.pilot
    target := BitVec.ofNat 16 x.target
    start := BitVec.ofNat 16 x.start
    visibility := BitVec.ofNat 16 x.visibility
    path := x.path
    display := [claimRecord node x] }

/-- An accepted TURN_UP starts its job and is reported (R60, R63, R74); the CLAIM follows (R83). R173 lets a TXQ_FULL of the CLAIM
come before the reports; the model keeps R63's order (log entry 28). -/
def State.acceptTurnUp (s : State) (r : OrderRecord) (o : TurnUpOrder) : State :=
  let egress := (pathAt o.path 0).egress.toNat
  let target := clampTarget (s.degree egress).floor o.target
  let prof := s.cfg.profiles.get o.profile
  let key := s.newKey
  let j := s.freeJob
  let p := s.freeEntry
  let e := s.newEntry
    (Participation.fresh key .head o.slot 0 egress 0 o.path o.pilot target prof.start prof.visibility)
  let x : Job :=
    { Job.fresh key .path prof egress o.slot 5 target p with
      tag := orderTag r
      pilot := o.pilot
      path := o.path
      timer := s.jobTimer .confirmWindow (replyWindow o.path.length) }
  let s := (((s.takeNumber.setEntry p (some e)).reserve egress o.slot p).setJob j (some x)).touch j
  let s := s.report (s.jobStartedEvent x (target != o.target))
  let s := s.orderDone ⟨orderKind r, orderTag r, some egress, some o.slot, BitVec.ofNat 32 j⟩
  s.jobSend j 0 (.claim (headClaim s.cfg.node.nodeId e))

/-- A TURN_UP is judged (R62, R63). -/
def State.judgeTurnUp (s : State) (r : OrderRecord) : State :=
  let o := turnUpOf r
  match s.turnUpRefusal o with
  | some x =>
    s.orderRefused x.reason
      ⟨orderKind r, orderTag r, o.path.head?.map fun e => e.egress.toNat, some o.slot, BitVec.ofNat 32 x.value2⟩
  | none => s.acceptTurnUp r o

/-- TURN_UP (R62). -/
def execTurnUp (upper : List Word) (s : State) : Result :=
  orderCommand (.turnUp upper) upper s (· = 1) fun r s => s.judgeTurnUp r

/-! ## SUSPEND, RESUME, ABORT (R65, R154 to R156) -/

/-- Phases in which SUSPEND and RESUME are refused BAD_STATE (R65). -/
def Phase.refusesSuspend : Phase → Bool
  | .claiming => true
  | .committing => true
  | .unwinding => true
  | .gating => false
  | .settling => false
  | .measuring => false
  | .waiting => false
  | .suspended => false

/-- The suspend-pending flag is set; the job's status record is marked where that changes it (R155, R160). -/
def State.pendSuspend (s : State) (j : Nat) : State :=
  s.withJob j fun x => if x.suspendPending then s else s.updJob j fun x => { x with suspendPending := true }

/-- The effect of an accepted SUSPEND, by the job's phase (R155). -/
def State.suspendJob (s : State) (j : Nat) : State :=
  s.withJob j fun x =>
    match x.phase with
    | .waiting => s.suspendNow j
    | .gating => s.pendSuspend j
    | .settling => s.pendSuspend j
    | .measuring => s.pendSuspend j
    | .suspended => s
    | .claiming => s
    | .unwinding => s
    | .committing => s

/-- A SUSPEND is judged (R65). -/
def State.judgeSuspend (s : State) (r : OrderRecord) : State :=
  let j := orderJob r
  match s.job j with
  | none => s.orderRefused .noJob (plainFields r 0)
  | some x =>
    if x.phase.refusesSuspend then s.orderRefused .badState (plainFields r (BitVec.ofNat 32 x.phase.code))
    else (s.suspendJob j).orderDone (plainFields r (BitVec.ofNat 32 j))

/-- SUSPEND (R65). -/
def execSuspend (upper : List Word) (s : State) : Result :=
  orderCommand (.suspend upper) upper s (· = 2) fun r s => s.judgeSuspend r

/-- A RESUME is judged (R65, R156). -/
def State.judgeResume (s : State) (r : OrderRecord) : State :=
  let j := orderJob r
  match s.job j with
  | none => s.orderRefused .noJob (plainFields r 0)
  | some x =>
    if x.phase = .suspended then (s.waitSettle j).orderDone (plainFields r (BitVec.ofNat 32 j))
    else s.orderRefused .badState (plainFields r (BitVec.ofNat 32 x.phase.code))

/-- RESUME (R65). -/
def execResume (upper : List Word) (s : State) : Result :=
  orderCommand (.resume upper) upper s (· = 3) fun r s => s.judgeResume r

/-- The effect of an accepted ABORT: in COMMITTING the late-abort flag, else an abort in the manner ordered (R148, R154). -/
def State.abortJob (s : State) (j : Nat) (immediate : Bool) : State :=
  s.withJob j fun x =>
    if x.phase = .committing then s.setJob j (some { x with lateAbort := true })
    else if immediate then s.emergencyAbort j .ordered 0 .none
    else s.gracefulAbort j .ordered 0

/-- An ABORT is judged (R65). -/
def State.judgeAbort (s : State) (r : OrderRecord) : State :=
  let j := orderJob r
  match s.job j with
  | none => s.orderRefused .noJob (plainFields r 0)
  | some _ => (s.abortJob j (orderImmediate r)).orderDone (plainFields r (BitVec.ofNat 32 j))

/-- ABORT (R65). -/
def execAbort (upper : List Word) (s : State) : Result :=
  orderCommand (.abort upper) upper s (· = 4) fun r s => s.judgeAbort r

/-! ## RELEASE, CLEAR_WATCH (R48, R52, R66) -/

/-- A RELEASE is judged (R48, R66). -/
def State.judgeRelease (s : State) (r : OrderRecord) : State :=
  let e := releaseEgress r
  let slot := releaseSlot r
  let o : OutcomeFields := ⟨orderKind r, orderTag r, some e, some slot, 0⟩
  if e ≤ 4 ∧ slot < Config.slots ∧ (s.grid e slot).state = .quarantined then
    (s.setGrid e slot GridEntry.freeEntry).orderDone o
  else s.orderRefused .notQuarantined o

/-- RELEASE (R48). -/
def execRelease (upper : List Word) (s : State) : Result :=
  orderCommand (.release upper) upper s (· = 5) fun r s => s.judgeRelease r

/-- A CLEAR_WATCH acts on entry (d, slot): DRIFT_CLEAR, with the order's kind as its cause, where a flag was set; the flags
clear; the commit level is taken afresh (R52). The report carries tag 0 (log entry 28). -/
def State.clearSlot (s : State) (d slot : Nat) : State :=
  let g := s.grid d slot
  if g.state = .inService then
    let r := s.reading d .outward slot
    let s :=
      if g.drift || g.loss then s.report { s.driftEvent .driftClear d slot r.level g.commitLevel with cause := 6 } else s
    s.setGrid d slot { g with commitLevel := r.level, drift := false, loss := false }
  else s

/-- A CLEAR_WATCH is judged (R52, R66). -/
def State.judgeClearWatch (s : State) (r : OrderRecord) : State :=
  let d := clearDegree r
  let o : OutcomeFields := ⟨orderKind r, orderTag r, some d, none, 0⟩
  if s.isEquipped d then ((List.range Config.slots).foldl (fun s slot => s.clearSlot d slot) s).orderDone o
  else s.orderRefused .degree o

/-- CLEAR_WATCH (R52). -/
def execClearWatch (upper : List Word) (s : State) : Result :=
  orderCommand (.clearWatch upper) upper s (· = 6) fun r s => s.judgeClearWatch r

/-! ## LOAD_PROFILE, LOAD_TABLE (R68, R69) -/

/-- A LOAD_PROFILE replaces the profile named, clamped (R68). -/
def State.judgeLoadProfile (s : State) (r : OrderRecord) : State :=
  { s with cfg.profiles := s.cfg.profiles.set (profileIndex r) (clampProfile (rawProfile r)) }.orderDone
    (plainFields r (profileClamps (rawProfile r)))

/-- LOAD_PROFILE (R68). -/
def execLoadProfile (upper : List Word) (s : State) : Result :=
  orderCommand (.loadProfile upper) upper s (· = 7) fun r s => s.judgeLoadProfile r

/-- A LOAD_TABLE replaces the sensitivity table, clamped (R69). -/
def State.judgeLoadTable (s : State) (r : OrderRecord) : State :=
  { s with cfg.sensitivity := clampedTable r }.orderDone (plainFields r (BitVec.ofNat 32 (clampedCount r)))

/-- LOAD_TABLE (R69). -/
def execLoadTable (upper : List Word) (s : State) : Result :=
  orderCommand (.loadTable upper) upper s (· = 8) fun r s => s.judgeLoadTable r

/-! ## SET_NODE (R54, R55, R72, R163) -/

/-- Something is live that pins the node ID and the equipped mask (R72). -/
def State.liveWork (s : State) : Bool := s.liveEntries != 0 || s.liveJobs != 0 || s.pa.returns != []

/-- The check of R72 that a SET_NODE fails: one that fails both is refused NODE_ID, R72's first (log entry 28). -/
def State.setNodeRefusal (s : State) (n : NodeSettings) : Option Cause :=
  if n.nodeId.toNat = 65535 then some .nodeId
  else if s.liveWork && (n.nodeId != s.cfg.node.nodeId || n.equipped != s.cfg.node.equipped) then some .busy
  else none

/-- An intake read of degree d that is outstanding is marked: its answer will be discarded (R54). -/
def PartReq.discard (d : Nat) (r : PartReq) : PartReq :=
  match r.purpose with
  | .intakeCell e slot _ => if e = d then { r with purpose := .intakeCell e slot true } else r
  | _ => r

/-- The outstanding intake reads of degree d are marked, those waiting and the one in progress (R54). -/
def BusInterposer.discardIntake (b : BusInterposer) (d : Nat) : BusInterposer :=
  { b with
    parts := b.parts.map (PartReq.discard d)
    port := match b.port with
      | .part r => .part (r.discard d)
      | .idle => .idle
      | .checkRead f => .checkRead f
      | .write f => .write f
      | .read t => .read t
      | .ending t => .ending t }

/-- Degree d leaves the equipped mask: its entries become FREE, its watch and its intake end (R54), its link becomes
DISABLED, with LINK_DOWN where it was UP (R163). -/
def State.removeDegree (s : State) (d : Nat) : State :=
  let wasUp := (s.link d).state = .up
  let s :=
    { s with
      cg.entries := s.cg.entries.mapIdx fun i g => if i / 96 = d then GridEntry.freeEntry else g
      cg.settlements := s.cg.settlements.mapIdx fun i x => if i / 96 = d then .settled else x
      cg.watches := s.cg.watches.set (d - 1) none
      cg.intakes := s.cg.intakes.set (d - 1) false
      shelf.bus := s.shelf.bus.discardIntake d
      slc.links := s.slc.links.set (d - 1) Link.silent }
  if wasUp then s.report { s.event .linkDown with egress := some d, value1 := 1 } else s

/-- Degree d joins the equipped mask: its intake begins with its 96 reads (R55), and its link is DOWN with its ALIVE timer
started (R163). -/
def State.addDegree (s : State) (d : Nat) : State :=
  let s :=
    { s with
      cg.settlements := s.cg.settlements.mapIdx fun i x => if i / 96 = d then .unread else x
      cg.intakes := s.cg.intakes.set (d - 1) true
      slc.links := s.slc.links.set (d - 1) ⟨.down, none, some s.now, [], .unknown, 0⟩ }
  (List.range Config.slots).foldl (fun s slot => s.produce (cellRead d slot (.intakeCell d slot false))) s

/-- What an accepted SET_NODE does to degree d, once the settings are replaced (R49, R54, R55, R163). -/
def State.changeDegree (s : State) (old : NodeSettings) (d : Nat) : State :=
  match maskHas old.equipped d, s.isEquipped d with
  | true, false => s.removeDegree d
  | false, true => s.addDegree d
  | true, true =>
    if (old.perDegree.get (d - 1)).driftInterval ≠ (s.degree d).driftInterval ∧ (s.watch d).isSome then s.startWatch d
    else s
  | false, false => s

/-- A SET_NODE is judged (R72). What it changes of the degrees, the LINK_DOWN reports among it, takes place degree by degree, in
ascending order (R163; log entry 28). -/
def State.judgeSetNode (s : State) (r : OrderRecord) : State :=
  let n := rawSettings r
  match s.setNodeRefusal n with
  | some c => s.orderRefused c (plainFields r 0)
  | none =>
    let old := s.cfg.node
    let s := { s with cfg.node := clampSettings n }
    ([1, 2, 3, 4].foldl (fun s d => s.changeDegree old d) s).orderDone (plainFields r (settingsClamps n))

/-- SET_NODE (R72). -/
def execSetNode (upper : List Word) (s : State) : Result :=
  orderCommand (.setNode upper) upper s (· = 9) fun r s => s.judgeSetNode r

end Sys2Proof.Machine
end

