-- ==== Sys2Proof/Machine/Links.lean ====
section
/-! DEFINITION. The supervisory links (chapter 9), and the matching of path frames to jobs and participations (R82). -/

namespace Sys2Proof.Machine

/-! ## Receiving (R164, R165) -/

/-- A link takes frames: it is not DISABLED, and no reset is in progress (R162). -/
def State.linkTakes (s : State) (d : Nat) : Bool := s.mode != .inReset && (s.link d).state != .disabled

/-- An event that names a degree. -/
def State.degreeEvent (s : State) (k : EventKind) (d : Nat) : Event := { s.event k with egress := some d }

/-- A valid frame arrives: a DOWN link comes UP, with LINK_UP; the liveness expiry is set from now (R165). -/
def State.linkHears (s : State) (d : Nat) : State :=
  let l := s.link d
  let t := s.setLink d { l with state := .up, heardAt := some s.now }
  if l.state = .down then t.report (s.degreeEvent .linkUp d) else t

/-- BAD_FRAME (R164): a frame that fails a check is counted, and has no other effect. -/
def execBadFrame (d : Nat) (bytes : List Byte) (s : State) : Result :=
  guarded (.badFrame d bytes)
    (if (decodeFrame bytes).isSome then .refused .frameIsValid
    else if s.linkTakes d then
      occur s fun s => s.setLink d { s.link d with badFrames := min badFrameLimit ((s.link d).badFrames + 1) }
    else .next s)

/-- The fresh flag of an ALIVE: bit 0 of its flags (section 12.3); bits 7:1 are ignored (log entry 28). -/
def freshFlag (flags : Byte) : NeighbourFresh := if flags.getLsbD 0 then .fresh else .notFresh

/-- A valid ALIVE sets the neighbour's record from its flag. On a link that was UP, a set flag after NOT_FRESH is a restart:
it is reported and PA acts (R168). -/
def State.takeAlive (s : State) (d : Nat) (flags : Byte) : State :=
  let before := s.link d
  let t := s.linkHears d
  let t := t.setLink d { t.link d with neighbour := freshFlag flags }
  if before.state = .up ∧ before.neighbour = .notFresh ∧ freshFlag flags = .fresh then
    (t.report (t.degreeEvent .neighbourRestart d)).pathLost d
  else t

/-- ALIVE (R168). -/
def execAlive (d : Nat) (flags : Byte) (s : State) : Result :=
  guarded (.alive d flags) (if s.linkTakes d then occur s fun s => s.takeAlive d flags else .next s)

/-! ## Timers of links (R166, R167) -/

/-- A time that may be absent has been followed by this length. -/
def dueFrom (t : Option Time) (length : Nat) (now : Time) : Bool := t.any fun t => Timer.due ⟨t, length⟩ now

/-- The liveness expiry of an UP link is reached (R166). -/
def State.livenessDue (s : State) (d : Nat) : Bool :=
  (s.link d).state == .up && dueFrom (s.link d).heardAt livenessLength s.now

/-- An UP link goes DOWN, its five acts in order (R166). -/
def State.linkDown (s : State) (d : Nat) : State :=
  let t := s.setLink d { s.link d with state := .down, heardAt := none, queue := [], neighbour := .unknown }
  (t.report (t.degreeEvent .linkDown d)).pathLost d

/-- LIVENESS_EXPIRY (R166). -/
def execLivenessExpiry (d : Nat) (s : State) : Result :=
  guarded (.livenessExpiry d) (if s.livenessDue d then occur s fun s => s.linkDown d else .next s)

/-- The flags of an ALIVE that joins a queue now: bit 0 is the fresh flag (R167), and bits 7:1, which section 12.3 does not
name, are sent 0 (log entry 28). -/
def State.aliveFlags (s : State) : Byte := if s.slc.freshFrom.isSome then 1 else 0

/-- The ALIVE timer starts again, and an ALIVE joins a queue of fewer than 8 frames (R167). -/
def State.offerAlive (s : State) (d : Nat) : State :=
  let l := { s.link d with aliveFrom := some s.now }
  s.setLink d (if l.queue.length < txqLimit then { l with queue := l.queue ++ [.alive s.aliveFlags] } else l)

/-- ALIVE_TIMER_EXPIRY (R167). -/
def execAliveTimerExpiry (d : Nat) (s : State) : Result :=
  guarded (.aliveTimerExpiry d)
    (if dueFrom (s.link d).aliveFrom aliveLength s.now then occur s fun s => s.offerAlive d else .next s)

/-- FRESH_PERIOD_END (R167). -/
def execFreshPeriodEnd (s : State) : Result :=
  if dueFrom s.slc.freshFrom freshLength s.now then occur s fun s => { s with slc.freshFrom := none } else .next s

/-- FRAME_SENT (R170): the last byte of the front frame has been sent, and it leaves the queue. -/
def execFrameSent (d : Nat) (s : State) : Result :=
  guarded (.frameSent d)
    (match (s.link d).queue with
    | [] => .refused .nothingToSend
    | f :: rest => occur s fun s => { s.setLink d { s.link d with queue := rest } with sent := s.sent ++ [(d, encodeFrame f)] })

/-! ## Matching (R82) -/

/-- What a path frame concerns. -/
inductive Match where
  | head (j : Nat)
  | entry (p : Nat)
  | wrongLink
  | noMatch
deriving DecidableEq, Repr

/-- The frame is of a kind and on a link that this PATH job's frames arrive by (R82). -/
def Job.hears (x : Job) (d : Nat) (f : PathFrame) : Bool := f.body.upstream && d == x.egress

/-- The frame is of a kind and on a link that this transit's or tail's frames arrive by (R78, R82). -/
def Participation.hears (x : Participation) (d : Nat) (f : PathFrame) : Bool :=
  if f.body.upstream then x.role == .transit && d == x.egress else d == x.ingress

/-- The key of a frame fits something that frames are matched against: a live PATH job, or a live TRANSIT or TAIL entry (R82,
R188). -/
def State.keyFits (s : State) (k : JobKey) : Bool :=
  (s.jobOfKey k).any Job.isPath || (s.entryOfKey k Role.isTransitOrTail).isSome

/-- PA matches a frame to the state it concerns (R82). A key that fits, on another link or in a kind that its role does not
hear, is the wrong link: a COMMITTED's too, before the commit return list, and a downstream kind's under a head job's key. A key
and a link that fit both a job and an entry are the job's (log entry 28). -/
def State.matchFrame (s : State) (d : Nat) (f : PathFrame) : Match :=
  let job := (s.jobOfKey f.key).filter Job.isPath
  let entry := s.entryOfKey f.key Role.isTransitOrTail
  let hearsEntry := entry.any fun p => (s.entry p).any fun x => x.hears d f
  if job.any fun x => x.hears d f then .head f.key.job.toNat
  else if hearsEntry then .entry (entry.getD 0)
  else if s.keyFits f.key then .wrongLink
  else .noMatch

/-- A matched frame restarts the orphan timer of a transit's or tail's entry, and the hold limit of its gate (R97, R104). -/
def State.hearEntry (s : State) (p : Nat) : State :=
  match s.entry p with
  | some x => (s.setEntry p (some { x with orphanFrom := some s.now })).restartGate p x
  | none => s

/-- What a path frame does where it is matched: at a head, at a transit or tail, and where nothing matches it. -/
structure FrameActs where
  atHead : State → Job → State
  atEntry : State → Nat → Participation → State
  unmatched : State → State

/-- A frame with a code that names no value is discarded: it matches no turn where its key fits, on either link, and matches
nothing otherwise (R188). -/
def State.strayCode (s : State) (d : Nat) (f : PathFrame) : State :=
  s.stray d f (if s.keyFits f.key then .outOfTurn else .noMatch)

/-- A matched frame is taken by what it matches. A job or an entry that is closing discards every kind without report, a
CONFIRM, a READY and a REPORT at a head too, where R101, R120 and R161 call them out of turn (R93, R153; log entry 28), but
those that R92 and R93 pass on, which `closingEntry` names. A code that names no value makes a frame stray, but at a closing
entry, which raises no STRAY_FRAME (R100, R188; log entry 16). -/
def State.takeMatched (s : State) (d : Nat) (f : PathFrame) (acts : FrameActs) (closingEntry : Bool) : State :=
  match s.matchFrame d f with
  | .wrongLink => if codesOk f.body then s.stray d f .wrongLink else s.strayCode d f
  | .noMatch => if codesOk f.body then acts.unmatched s else s.strayCode d f
  | .head j =>
    s.withJob j fun x =>
      let s := s.restartJobGate x
      if !codesOk f.body then s.strayCode d f else if x.closing then s else acts.atHead s x
  | .entry p =>
    let s := s.hearEntry p
    match s.entry p with
    | none => s
    | some x =>
      if x.closing && !(closingEntry && codesOk f.body) then s
      else if codesOk f.body then acts.atEntry s p x
      else s.strayCode d f

/-- A path frame arrives on a link (R82, R165). -/
def pathFrame (i : Instr) (d : Nat) (f : PathFrame) (s : State) (acts : FrameActs) (closingEntry : Bool) : Result :=
  guarded i
    (if s.linkTakes d then occur s fun s => (s.linkHears d).takeMatched d f acts closingEntry else .next s)

/-- A frame that nothing matches is stray (R82). -/
def noMatchStray (d : Nat) (f : PathFrame) (s : State) : State := s.stray d f .noMatch

/-- A frame that the state of its job does not take is out of turn (R100, R122). -/
def headStray (d : Nat) (f : PathFrame) (s : State) (_ : Job) : State := s.stray d f .outOfTurn

/-- A frame that the state of its entry does not take is out of turn (R100, R122). -/
def entryStray (d : Nat) (f : PathFrame) (s : State) (_ : Nat) (_ : Participation) : State := s.stray d f .outOfTurn

end Sys2Proof.Machine
end

