-- ==== Sys2Proof/Machine/PathFrames.lean ====
section
/-! DEFINITION. The frames of the path protocol other than those of the step cycle: CLAIM, CONFIRM, REFUSE, COMMIT,
COMMITTED, ABORT, ALARM, KEEP (chapter 5). -/

namespace Sys2Proof.Machine

/-! ## CLAIM (R84 to R87) -/

/-- The hop index k that a CLAIM gives the node it reaches: the number of records in its display (R84). -/
def claimHop (b : ClaimBody) : Nat := b.display.length

/-- No node ID appears twice in a path. -/
def distinctNodes (path : List PathEntry) : Bool :=
  (List.range path.length).all fun i => !((path.take i).any fun e => e.node == (path.getD i default).node)

/-- Check 2 of R84: the CLAIM is well formed. -/
def claimFormOk (c : ClaimBody) : Bool :=
  c.slot.toNat < Config.slots && c.pilot.toNat ≤ 4095 && c.target.toNat ≤ attMax
    && 1000 ≤ c.start.toNat && c.start.toNat ≤ attMax && c.visibility.toNat ≤ attMax
    && (List.range c.path.length).all (fun i => pathEntryOk i (c.path.getD i default))
    && distinctNodes c.path && displayHolds c.display c.path 0 c.display.length claimFiguresOk

/-- This node's place in a CLAIM's path: its entry, and whether it is the last. -/
structure ClaimPlace where
  hop : Nat
  egress : Nat
  isTail : Bool
deriving DecidableEq, Repr

/-- Check 1 of R84: path entry k exists, names this node and has ingress d. -/
def State.claimPlace (s : State) (d : Nat) (b : ClaimBody) : Option ClaimPlace :=
  match b.path[claimHop b]? with
  | some e =>
    if e.node = s.cfg.node.nodeId ∧ s.cfg.node.nodeId ≠ 0 ∧ e.ingress.toNat = d then
      some ⟨claimHop b, e.egress.toNat, claimHop b + 1 == b.path.length⟩
    else none
  | none => none

/-- The watched degree of the node that a CLAIM reaches on link d (R78). -/
def ClaimPlace.watched (x : ClaimPlace) (d : Nat) : Nat := if x.isTail then d else x.egress

/-- Checks 2 to 11 of R84, in order: the reason of the first that fails. A cell and a participation that a burst's judgement has
given to a local job at a grant whose check read is not yet answered are taken (R6, R12; log entry 9). -/
def State.claimRefusal (s : State) (d : Nat) (key : JobKey) (b : ClaimBody) (x : ClaimPlace) : Option Cause :=
  let ingress := (s.reading d .inward b.slot.toNat).cls
  if !claimFormOk b then some .pathForm
  else if s.isAdopting then some .notReady
  else if x.isTail != (x.egress == 0) then some .pathTail
  else if x.egress ≠ 0 ∧ !s.isEquipped x.egress then some .degree
  else if Config.entries ≤ s.liveEntries + s.promisedEntries then some .noEntry
  else if s.pa.entries.cells.any fun e => e.any fun e => e.key == key then some .duplicate
  else if (s.grid x.egress b.slot.toNat).state ≠ .free ∨ s.shelf.bus.promised.contains (x.egress, b.slot.toNat) then
    some .slotBusy
  else if ingress = .finite ∨ ingress = .over then some .ingressLit
  else if !s.isSettled (x.watched d) then some .drifting
  else if !x.isTail && (s.link x.egress).state != .up then some .link
  else none

/-- A CLAIM that fails a check is answered by a REFUSE with the reason and k (R85). It is no frame of a job that holds a gate
here, and restarts no hold limit (R104; log entry 28). -/
def State.refuseClaim (s : State) (d : Nat) (key : JobKey) (b : ClaimBody) (cause : Cause) : State :=
  s.send d ⟨key, 0, .refuse (BitVec.ofNat 8 cause.code) (BitVec.ofNat 8 (claimHop b))⟩

/-- A node opens its part of the route: its cell is written with its ingress as the source and its route attenuation, and its
participation becomes OPEN (R87). -/
def State.openRoute (s : State) (p : Nat) (x : Participation) : State :=
  (s.setEntry p (some { x with opened := true })).writeCell .c x.egress x.slot
    (mkCell x.ingress 0 (.hdb (x.routeAtt.getD 0))) (.route p x.key)

/-- The participation that an accepted CLAIM creates (R86). -/
def State.claimEntry (s : State) (d : Nat) (key : JobKey) (b : ClaimBody) (c : ClaimPlace) : Participation :=
  let x := s.newEntry
    (Participation.fresh key (if c.isTail then .tail else .transit) b.slot.toNat d c.egress c.hop b.path b.pilot.toNat
      b.target.toNat b.start.toNat b.visibility.toNat)
  { x with
    routeAtt := some (if c.isTail then s.cfg.node.drop else (s.degree c.egress).express)
    orphanFrom := some s.now }

/-- A CLAIM that passes every check is accepted: a transit hands it on, a tail opens its route and answers CONFIRM (R86,
R87). -/
def State.acceptClaim (s : State) (d : Nat) (f : PathFrame) (b : ClaimBody) (c : ClaimPlace) : State :=
  let p := s.freeEntry
  let x := s.claimEntry d f.key b c
  let display := addRecord (claimRecord s.cfg.node.nodeId x) b.display
  let s := (s.setEntry p (some x)).reserve c.egress x.slot p
  if c.isTail then (s.openRoute p x).handFrame p x d ⟨f.key, 0, .confirm display⟩
  else s.handFrame p x c.egress { f with body := .claim { b with display := display } }

/-- A CLAIM is judged against the state at its arrival (R84). -/
def State.judgeClaim (s : State) (d : Nat) (f : PathFrame) (b : ClaimBody) : State :=
  match s.claimPlace d b with
  | none => s.refuseClaim d f.key b .pathMismatch
  | some c =>
    match s.claimRefusal d f.key b c with
    | some cause => s.refuseClaim d f.key b cause
    | none => s.acceptClaim d f b c

/-- CLAIM (R84): judged whatever entries the node holds (R82); one with a code that names no value, a degree in its path among
them, is stray before any check (R188; log entry 16). -/
def execClaim (d : Nat) (key : JobKey) (step : Byte) (b : ClaimBody) (s : State) : Result :=
  let f : PathFrame := ⟨key, step, .claim b⟩
  guarded (.claim d key step b)
    (if s.linkTakes d then
      occur s fun s =>
        let s := s.linkHears d
        if codesOk f.body then s.judgeClaim d f b else s.strayCode d f
    else .next s)

/-! ## CONFIRM (R87, R88) -/

/-- A complete CONFIRM at a head in CLAIMING: the participation becomes OPEN, the window ends, the per-hop array is made,
and the ramp begins (R88, R126). -/
def State.beginRamp (s : State) (x : Job) (display : List HopRecord) : State :=
  let s := match x.entry with
    | some p =>
      match s.entry p with
      | some e => s.setEntry p (some { e with opened := true })
      | none => s
    | none => s
  (s.updJob x.number fun x => { x with hops := hopArray x.path.length display, timer := none }).beginStep x.number

/-- CONFIRM at a head (R88). -/
def confirmAtHead (d : Nat) (f : PathFrame) (display : List HopRecord) (s : State) (x : Job) : State :=
  if x.phase ≠ .claiming then s.stray d f .outOfTurn
  else if displayHolds display x.path 0 x.path.length claimFiguresOk then s.beginRamp x display
  else s.emergencyAbort x.number .display 0 .none

/-- CONFIRM at a transit: it opens the route of one that is RESERVED, and is handed up (R87). -/
def confirmAtEntry (d : Nat) (f : PathFrame) (s : State) (p : Nat) (x : Participation) : State :=
  if x.opened then s.stray d f .outOfTurn else (s.openRoute p x).handFrame p x x.ingress f

/-- CONFIRM (R88). -/
def execConfirm (d : Nat) (key : JobKey) (step : Byte) (display : List HopRecord) (s : State) : Result :=
  let f : PathFrame := ⟨key, step, .confirm display⟩
  pathFrame (.confirm d key step display) d f s ⟨confirmAtHead d f display, confirmAtEntry d f, noMatchStray d f⟩ false

/-! ## REFUSE (R89) -/

/-- The cause that a frame's byte names. -/
def causeOf (b : Byte) : Cause := (Cause.ofCode b.toNat).getD .none

/-- A participation that ends without a closing write leaves its entry FREE (R46, R79). -/
def State.dropEntry (s : State) (p : Nat) (x : Participation) : State :=
  (s.freeParticipation p).setGrid x.egress x.slot GridEntry.freeEntry

/-- A REFUSE ends a job in CLAIMING: its participation is freed, with no write, and it ends REFUSED (R89). -/
def State.refuseJob (s : State) (x : Job) (cause : Cause) (hop : Nat) : State :=
  let s := match x.entry with
    | some p =>
      match s.entry p with
      | some e => s.dropEntry p e
      | none => s
    | none => s
  (s.updJob x.number fun x => { x with cause := cause, causeHop := hop, entry := none }).endJob x.number ⟨.refused, .free⟩

/-- An ALARM or REFUSE at a head: in COMMITTING the job ends COMMIT_UNCONFIRMED with the frame's cause and hop index (R148);
else an emergency abort REMOTE_ALARM (R89, R95). -/
def State.remoteAlarm (s : State) (x : Job) (cause : Cause) (hop : Nat) : State :=
  if x.phase = .committing then
    (s.updJob x.number fun x => { x with cause := cause, causeHop := hop }).endJob x.number
      ⟨.commitUnconfirmed, .inService⟩
  else s.emergencyAbort x.number .remoteAlarm hop cause

/-- REFUSE at a head (R89). -/
def refuseAtHead (cause hop : Byte) (s : State) (x : Job) : State :=
  if x.phase = .claiming then s.refuseJob x (causeOf cause) hop.toNat else s.remoteAlarm x (causeOf cause) hop.toNat

/-- REFUSE at a transit: one that is RESERVED is freed, one that is OPEN becomes closing; the REFUSE is handed up (R89). -/
def refuseAtEntry (f : PathFrame) (s : State) (p : Nat) (x : Participation) : State :=
  if x.opened then (s.closeParticipation p x x.closingWord).send x.ingress f else (s.dropEntry p x).send x.ingress f

/-- REFUSE (R89). -/
def execRefuse (d : Nat) (key : JobKey) (step cause hop : Byte) (s : State) : Result :=
  let f : PathFrame := ⟨key, step, .refuse cause hop⟩
  pathFrame (.refuse d key step cause hop) d f s ⟨refuseAtHead cause hop, refuseAtEntry f, noMatchStray d f⟩ false

/-! ## COMMIT, COMMITTED (R90, R91) -/

/-- A commit return record joins the list, the oldest removed first from a list of 32 (R91). -/
def addReturn (r : CommitReturn) (l : List CommitReturn) : List CommitReturn :=
  (if l.length < returnLimit then l else l.drop 1) ++ [r]

/-- COMMIT at a transit or tail that is OPEN: its entry enters IN_SERVICE and its participation is freed; a transit makes a
commit return record and hands the COMMIT on, a tail answers COMMITTED (R90, R91). The write that opened its route, where it is
still pending, stays pending and is issued (R41; log entry 28). -/
def commitAtEntry (d : Nat) (f : PathFrame) (s : State) (p : Nat) (x : Participation) : State :=
  if !x.opened then s.stray d f .outOfTurn
  else
    let s := (s.commitGrid x.egress x.slot).freeParticipation p
    if x.role = .transit then
      { s with pa.returns := addReturn ⟨x.key, x.ingress, x.egress, s.now⟩ s.pa.returns }.send x.egress f
    else s.send x.ingress ⟨x.key, 0, .committed⟩

/-- COMMIT (R90). -/
def execCommit (d : Nat) (key : JobKey) (step : Byte) (s : State) : Result :=
  let f : PathFrame := ⟨key, step, .commit⟩
  pathFrame (.commit d key step) d f s ⟨headStray d f, commitAtEntry d f, noMatchStray d f⟩ false

/-- COMMITTED at a head: it ends a job in COMMITTING (R91, R148). -/
def committedAtHead (d : Nat) (f : PathFrame) (s : State) (x : Job) : State :=
  if x.phase = .committing then s.endJob x.number ⟨.committed, .inService⟩ else s.stray d f .outOfTurn

/-- A COMMITTED without a match is matched against the commit return list, and passes through its record, the oldest of two with
one key and one egress (R91; log entry 28). -/
def committedReturn (d : Nat) (f : PathFrame) (s : State) : State :=
  match s.pa.returns.find? fun r => r.key == f.key && r.egress == d with
  | some r => { s with pa.returns := s.pa.returns.erase r }.send r.ingress f
  | none => s.stray d f .noMatch

/-- COMMITTED (R91). -/
def execCommitted (d : Nat) (key : JobKey) (step : Byte) (s : State) : Result :=
  let f : PathFrame := ⟨key, step, .committed⟩
  pathFrame (.committed d key step) d f s ⟨committedAtHead d f, entryStray d f, committedReturn d f⟩ false

/-! ## ABORT, ALARM, KEEP (R92, R95, R96) -/

/-- A transit hands a downstream frame on; at a tail it is taken (R92, R96, R116). -/
def State.passDown (s : State) (p : Nat) (x : Participation) (f : PathFrame) : State :=
  if x.role = .transit then s.handFrame p x x.egress f else s

/-- ABORT at a transit or tail: one that is not closing becomes closing; a transit hands it on in either case (R92). -/
def abortAtEntry (f : PathFrame) (s : State) (p : Nat) (x : Participation) : State :=
  let s := if x.closing then s else s.closeParticipation p x x.closingWord
  s.passDown p x f

/-- ABORT (R92). -/
def execAbortFrame (d : Nat) (key : JobKey) (step cause : Byte) (s : State) : Result :=
  let f : PathFrame := ⟨key, step, .abort cause⟩
  pathFrame (.abortFrame d key step cause) d f s ⟨headStray d f, abortAtEntry f, noMatchStray d f⟩ true

/-- ALARM at a head (R95). -/
def alarmAtHead (cause hop : Byte) (s : State) (x : Job) : State := s.remoteAlarm x (causeOf cause) hop.toNat

/-- ALARM at a transit, closing or not: handed up (R95). -/
def alarmAtEntry (f : PathFrame) (s : State) (p : Nat) (x : Participation) : State := s.handFrame p x x.ingress f

/-- ALARM (R95). -/
def execAlarm (d : Nat) (key : JobKey) (step cause hop : Byte) (s : State) : Result :=
  let f : PathFrame := ⟨key, step, .alarm cause hop⟩
  pathFrame (.alarm d key step cause hop) d f s ⟨alarmAtHead cause hop, alarmAtEntry f, noMatchStray d f⟩ true

/-- KEEP at a transit or tail: a transit hands it on; it changes nothing else (R96). -/
def keepAtEntry (f : PathFrame) (s : State) (p : Nat) (x : Participation) : State := s.passDown p x f

/-- KEEP (R96). -/
def execKeep (d : Nat) (key : JobKey) (step : Byte) (s : State) : Result :=
  let f : PathFrame := ⟨key, step, .keep⟩
  pathFrame (.keep d key step) d f s ⟨headStray d f, keepAtEntry f, noMatchStray d f⟩ false

end Sys2Proof.Machine
end

