-- ==== Sys2Proof/Machine/CycleFrames.lean ====
section
/-! DEFINITION. The frames of the step cycle: INTENT, READY, BUSY, MEASURE, REPORT, STEP_END (chapter 6). -/

namespace Sys2Proof.Machine

/-! ## INTENT (R107) -/

/-- INTENT at a transit or tail whose entry is OPEN and holds its target: the entry becomes RAMPING, and the node takes its
gate and hands the INTENT on, or READY up, or answers BUSY (R107). -/
def State.takeIntent (s : State) (p : Nat) (x : Participation) (f : PathFrame) (a : Atten) : State :=
  let y := if x.role = .transit then { x with intents := f.step :: x.intents } else x
  let s := (s.setEntry p (some y)).startRamping y.egress y.slot
  if s.gateBusy p y then s.handFrame p y y.ingress ⟨y.key, f.step, .busy (BitVec.ofNat 8 y.hop)⟩
  else
    let s := s.takeGate p y f.step.toNat a
    if y.role = .transit then s.handFrame p y y.egress f else s.handFrame p y y.ingress ⟨y.key, f.step, .ready⟩

/-- INTENT at a transit or tail (R107, R122). -/
def intentAtEntry (d : Nat) (f : PathFrame) (att target : BitVec 16) (s : State) (p : Nat) (x : Participation) : State :=
  if x.opened && x.target == target.toNat then s.takeIntent p x f (Atten.ofCode att.toNat) else s.stray d f .outOfTurn

/-- INTENT (R107). -/
def execIntent (d : Nat) (key : JobKey) (step : Byte) (att target : BitVec 16) (s : State) : Result :=
  let f : PathFrame := ⟨key, step, .intent att target⟩
  pathFrame (.intent d key step att target) d f s ⟨headStray d f, intentAtEntry d f att target, noMatchStray d f⟩ false

/-! ## READY, BUSY (R108 to R110) -/

/-- The answer that a job in GATING awaits: it carries the step number of its INTENT (R105, R122). -/
def Job.awaitsAnswer (x : Job) (f : PathFrame) : Bool := x.phase == .gating && f.step.toNat == x.stepNo + 1

/-- READY at a head: the window ends, both runs become 0, and the step is written (R109). -/
def readyAtHead (d : Nat) (f : PathFrame) (s : State) (x : Job) : State :=
  if x.awaitsAnswer f then
    (s.updJob x.number fun x => { x with timer := none, busyRun := 0, silentRun := 0 }).applyStep x.number
  else s.stray d f .outOfTurn

/-- A transit that is OPEN passes the answers to the INTENTs it has taken since its last STEP_END (R108, R122). -/
def Participation.passesAnswer (x : Participation) (f : PathFrame) : Bool := x.opened && x.intents.contains f.step

/-- READY at a transit (R108). -/
def readyAtEntry (d : Nat) (f : PathFrame) (s : State) (p : Nat) (x : Participation) : State :=
  if x.passesAnswer f then s.handFrame p x x.ingress f else s.stray d f .outOfTurn

/-- READY (R109). -/
def execReady (d : Nat) (key : JobKey) (step : Byte) (s : State) : Result :=
  let f : PathFrame := ⟨key, step, .ready⟩
  pathFrame (.ready d key step) d f s ⟨readyAtHead d f, readyAtEntry d f, noMatchStray d f⟩ false

/-- BUSY at a head (R110). -/
def busyAtHead (d : Nat) (f : PathFrame) (hop : Byte) (s : State) (x : Job) : State :=
  if x.awaitsAnswer f then s.busyAnswer x.number hop.toNat true else s.stray d f .outOfTurn

/-- BUSY at a transit: its gate is released, and the BUSY is handed up (R108). -/
def busyAtEntry (d : Nat) (f : PathFrame) (s : State) (p : Nat) (x : Participation) : State :=
  if x.passesAnswer f then (s.releaseGate p x).handFrame p x x.ingress f else s.stray d f .outOfTurn

/-- BUSY (R110). -/
def execBusy (d : Nat) (key : JobKey) (step hop : Byte) (s : State) : Result :=
  let f : PathFrame := ⟨key, step, .busy hop⟩
  pathFrame (.busy d key step hop) d f s ⟨busyAtHead d f hop, busyAtEntry d f, noMatchStray d f⟩ false

/-! ## MEASURE (R112) -/

/-- MEASURE at a transit or tail that is OPEN: what it holds is discarded, the cycle is recorded, a measurement is asked,
and a transit hands the MEASURE on (R112). -/
def measureAtEntry (d : Nat) (f : PathFrame) (att target : BitVec 16) (s : State) (p : Nat) (x : Participation) : State :=
  if x.opened then
    let a := Atten.ofCode att.toNat
    let y := { x with ownRecord := none, heldReport := none, cycle := some ⟨f.step, a, target.toNat⟩ }
    ((s.setEntry p (some y)).askMeasurement p a).passDown p y f
  else s.stray d f .outOfTurn

/-- MEASURE (R112). -/
def execMeasure (d : Nat) (key : JobKey) (step : Byte) (att target : BitVec 16) (s : State) : Result :=
  let f : PathFrame := ⟨key, step, .measure att target⟩
  pathFrame (.measure d key step att target) d f s ⟨headStray d f, measureAtEntry d f att target, noMatchStray d f⟩ false

/-! ## REPORT (R114, R115) -/

/-- A record of a REPORT agrees with the per-hop array on B, H and the reference count, and its figures lie in their ranges
(R115). -/
def reportFiguresOk (hops : List HopElem) (r : HopRecord) : Bool :=
  r.dev.toNat ≤ devMax && r.tnext.toNat ≤ permilleMax &&
    hops.any fun h =>
      h.hop == r.hop.toNat && h.budget == r.budget.toNat && h.limit == r.limit.toNat && h.count == r.count.toNat

/-- REPORT at a head in MEASURING: the window ends and the silent run becomes 0; a complete display is held until the own
result is in, and one that is not aborts the job (R115). -/
def reportAtHead (d : Nat) (f : PathFrame) (display : List HopRecord) (s : State) (x : Job) : State :=
  if x.phase = .measuring ∧ f.step.toNat = x.stepNo then
    let s := s.setJob x.number (some { x with timer := none, silentRun := 0 })
    if displayHolds display x.path 1 x.path.length (reportFiguresOk x.hops) then
      (s.withJob x.number fun y => s.setJob x.number (some { y with display := some display })).decideIfReady x.number
    else s.emergencyAbort x.number .display 0 .none
  else s.stray d f .outOfTurn

/-- REPORT at a transit that is OPEN, with the step number of the cycle it serves: held, and paired (R114). -/
def reportAtEntry (d : Nat) (f : PathFrame) (display : List HopRecord) (s : State) (p : Nat) (x : Participation) : State :=
  if x.opened && x.cycle.any fun c => c.step == f.step then
    (s.setEntry p (some { x with heldReport := some display })).pairReport p
  else s.stray d f .outOfTurn

/-- REPORT (R115). -/
def execReport (d : Nat) (key : JobKey) (step : Byte) (display : List HopRecord) (s : State) : Result :=
  let f : PathFrame := ⟨key, step, .report display⟩
  pathFrame (.report d key step display) d f s ⟨reportAtHead d f display, reportAtEntry d f display, noMatchStray d f⟩ false

/-! ## STEP_END (R116) -/

/-- STEP_END at a transit or tail that is OPEN, the same for every decision: the gate is released, what it held or had
pending is discarded, and a transit hands it on (R116). -/
def stepEndAtEntry (d : Nat) (f : PathFrame) (s : State) (p : Nat) (x : Participation) : State :=
  if x.opened then
    let y := { x with measurement := none, ownRecord := none, heldReport := none, intents := [] }
    ((s.releaseGate p x).setEntry p (some y)).passDown p y f
  else s.stray d f .outOfTurn

/-- STEP_END (R116). -/
def execStepEnd (d : Nat) (key : JobKey) (step decision : Byte) (s : State) : Result :=
  let f : PathFrame := ⟨key, step, .stepEnd decision⟩
  pathFrame (.stepEnd d key step decision) d f s ⟨headStray d f, stepEndAtEntry d f, noMatchStray d f⟩ false

end Sys2Proof.Machine
end

