-- ==== Sys2Proof/Machine/Timers.lean ====
section
/-! DEFINITION. The timers of participations, of gates and of jobs (chapters 5, 6 and 8). A timer or window that has ended
does not expire (R118): its command then changes nothing. -/

namespace Sys2Proof.Machine

/-! ## ORPHAN_TIMER_EXPIRY (R97) -/

/-- The orphan timer of entry p is reached. -/
def State.orphanDue (s : State) (p : Nat) : Bool := (s.entry p).any fun x => dueFrom x.orphanFrom orphanLength s.now

/-- ORPHAN (R97, section 12.2). -/
def State.orphanEvent (s : State) (x : Participation) : Event :=
  { s.jobEvent .orphan x.key x.egress x.slot with
    value1 := packWord [⟨x.role.code, 0, 2⟩, ⟨flag x.opened, 4, 1⟩, ⟨x.hop, 8, 4⟩] }

/-- The orphan timer expires: a participation that is not closing is reported and becomes closing; one that is closing has
its grid outcome made QUARANTINED (R97). -/
def State.orphan (s : State) (p : Nat) : State :=
  match s.entry p with
  | none => s
  | some x =>
    let y := { x with orphaned := true, orphanFrom := none }
    if x.closing then s.setEntry p (some y)
    else (s.report (s.orphanEvent x)).closeParticipation p y y.closingWord

/-- ORPHAN_TIMER_EXPIRY (R97). -/
def execOrphanTimerExpiry (p : Nat) (s : State) : Result :=
  guarded (.orphanTimerExpiry p) (if s.orphanDue p then occur s fun s => s.orphan p else .next s)

/-! ## KEEP_TIMER_EXPIRY, COMMIT_RETURN_EXPIRY (R96, R91) -/

/-- The KEEP timer of job j is reached. -/
def State.keepDue (s : State) (j : Nat) : Bool := (s.job j).any fun x => dueFrom x.keepFrom keepLength s.now

/-- KEEP_TIMER_EXPIRY (R96): a KEEP is handed to the link, and the timer starts again. -/
def execKeepTimerExpiry (j : Nat) (s : State) : Result :=
  guarded (.keepTimerExpiry j) (if s.keepDue j then occur s fun s => s.jobSend j 0 .keep else .next s)

/-- The oldest commit return record has reached its 1050 ms. -/
def State.returnDue (s : State) : Bool := s.pa.returns.head?.any fun r => Timer.due ⟨r.created, returnLength⟩ s.now

/-- COMMIT_RETURN_EXPIRY (R91): the oldest record is removed. -/
def execCommitReturnExpiry (s : State) : Result :=
  if s.returnDue then occur s fun s => { s with pa.returns := s.pa.returns.drop 1 } else .next s

/-! ## GATE_HOLD_LIMIT_EXPIRY (R104) -/

/-- The hold limit of gate (d, dir) is reached. -/
def State.gateDue (s : State) (d : Nat) (dir : Dir) : Bool :=
  (s.gate d dir).any fun h => Timer.due ⟨h.since, gateLimit⟩ s.now

/-- GATE_EXPIRED (R104, section 12.2). Of a head attenuation that an INTENT gave as 4096 or more the low 12 bits show (log
entry 17). -/
def State.gateEvent (s : State) (d : Nat) (dir : Dir) (h : GateHold) : Event :=
  { s.event .gateExpired with
    egress := some d
    key := some h.key
    tag := s.tagOf h.key
    value1 := packWord [⟨dir.code, 0, 1⟩, ⟨h.step, 8, 8⟩]
    value2 := packWord [⟨h.att.code, 0, 12⟩] }

/-- The gate is released with its report; a transit or tail raises ALARM, a head or local job takes an emergency abort
(R104). -/
def State.gateExpires (s : State) (d : Nat) (dir : Dir) : State :=
  match s.gate d dir with
  | none => s
  | some h =>
    let s := (s.setGate d dir none).report (s.gateEvent d dir h)
    match s.entry h.holder with
    | none => s
    | some x =>
      if x.role.isTransitOrTail then s.raiseAlarm h.holder .gateExpired
      else s.emergencyAbort x.key.job.toNat .gateExpired 0 .none

/-- GATE_HOLD_LIMIT_EXPIRY (R104). -/
def execGateHoldLimitExpiry (d : Nat) (dir : Dir) (s : State) : Result :=
  guarded (.gateHoldLimitExpiry d dir) (if s.gateDue d dir then occur s fun s => s.gateExpires d dir else .next s)

/-! ## The windows of a job (R118, R119) -/

/-- Job j's one timer is of this kind, and it is reached. -/
def State.jobDue (s : State) (j : Nat) (k : JobTimerKind) : Bool :=
  (s.job j).any fun x => x.timer.any fun t => t.kind == k && t.timer.due s.now

/-- The job's timer, reached, runs no more. -/
def State.stopTimer (s : State) (j : Nat) : State := s.withJob j fun x => s.setJob j (some { x with timer := none })

/-- CONFIRM_WINDOW_EXPIRY (R118). -/
def execConfirmWindowExpiry (j : Nat) (s : State) : Result :=
  guarded (.confirmWindowExpiry j)
    (if s.jobDue j .confirmWindow then occur s fun s => (s.stopTimer j).emergencyAbort j .pathSilent 0 .none else .next s)

/-- A silent event: the run rises, and at 2 the job takes an emergency abort PATH_SILENT in place of the action of its
window (R119). -/
def State.silentEvent (s : State) (j : Nat) (action : State → State) : State :=
  s.withJob j fun x =>
    let s := s.setJob j (some { x with silentRun := min silentLimit (x.silentRun + 1), timer := none })
    if silentLimit ≤ x.silentRun + 1 then s.emergencyAbort j .pathSilent 0 .none else action s

/-- READY_BUSY_WINDOW_EXPIRY (R118): the gate is released with STEP_END(RELEASE), and the job waits its retry delay. -/
def execReadyBusyWindowExpiry (j : Nat) (s : State) : Result :=
  guarded (.readyBusyWindowExpiry j)
    (if s.jobDue j .readyBusyWindow then
      occur s fun s => s.silentEvent j fun s => (s.endCycle j decisionRelease).waitRetry j
    else .next s)

/-- The head's own result of the cycle, held or pending, is discarded (R118). -/
def State.discardOwn (s : State) (j : Nat) : State :=
  s.withJob j fun x => (s.setJob j (some { x with ownRecord := none, display := none })).withdrawJob x

/-- REPORT_WINDOW_EXPIRY (R118): the own result is discarded, and the cycle's decision is BACKOFF. -/
def execReportWindowExpiry (j : Nat) (s : State) : Result :=
  guarded (.reportWindowExpiry j)
    (if s.jobDue j .reportWindow then occur s fun s => s.silentEvent j fun s => (s.discardOwn j).backoff j 0 else .next s)

/-- COMMITTED_WINDOW_EXPIRY (R118, R148). -/
def execCommittedWindowExpiry (j : Nat) (s : State) : Result :=
  guarded (.committedWindowExpiry j)
    (if s.jobDue j .committedWindow then
      occur s fun s => (s.stopTimer j).endJob j ⟨.commitUnconfirmed, .inService⟩
    else .next s)

/-! ## The other timers of a job (R110, R111, R144, R152) -/

/-- SETTLE_TIMER_EXPIRY (R111, R121). -/
def execSettleTimerExpiry (j : Nat) (s : State) : Result :=
  guarded (.settleTimerExpiry j)
    (if s.jobDue j .settle then occur s fun s => (s.stopTimer j).beginMeasure j else .next s)

/-- RETRY_DELAY_END (R110, R121): the job begins its gated step again. -/
def execRetryDelayEnd (j : Nat) (s : State) : Result :=
  guarded (.retryDelayEnd j) (if s.jobDue j .retry then occur s fun s => (s.stopTimer j).beginStep j else .next s)

/-- REMEASURE_WAIT_END (R111, R144, R156). -/
def execRemeasureWaitEnd (j : Nat) (s : State) : Result :=
  guarded (.remeasureWaitEnd j) (if s.jobDue j .wait then occur s fun s => (s.stopTimer j).beginRemeasure j else .next s)

/-- An unwind write: the value popped is written, A takes it, and the timer starts again (R142, R152). -/
def State.unwindWrite (s : State) (j : Nat) (a : Atten) (rest : List Atten) : State :=
  s.withJob j fun x =>
    let s := s.writeJobCell x a x.pilot (.step x.key)
    s.updJob j fun x =>
      { x with att := a, stack := rest, lastPilot := x.pilot, timer := s.jobTimer .unwind x.profile.settle }

/-- The unwind timer expires (R152). -/
def State.unwind (s : State) (j : Nat) : State :=
  s.withJob j fun x =>
    match x.stack with
    | [] => s.endUnwind j
    | .block :: rest => (s.updJob j fun x => { x with stack := rest }).endUnwind j
    | .hdb n :: rest => s.unwindWrite j (.hdb n) rest

/-- UNWIND_TIMER_EXPIRY (R152). -/
def execUnwindTimerExpiry (j : Nat) (s : State) : Result :=
  guarded (.unwindTimerExpiry j) (if s.jobDue j .unwind then occur s fun s => (s.stopTimer j).unwind j else .next s)

end Sys2Proof.Machine
end

