-- ==== Sys2Proof/Machine/Clock.lean ====
section
/-! DEFINITION. The passing of time: what the device does while no command waits (log entry 4). -/

namespace Sys2Proof.Machine

/-- The clock one microsecond on (00_scope.md section 5). -/
def Clock.next (c : Clock) : Clock := if c.us < 999 then ⟨c.ms, c.us + 1⟩ else ⟨c.ms + 1, 0⟩

/-- The commands chosen by a test from the commands of a range. -/
def dueIn (n : Nat) (due : Nat → Bool) (c : Nat → Instr) : List Instr := ((List.range n).filter due).map c

/-- The line degrees. -/
def lineDegrees : List Nat := [1, 2, 3, 4]

/-- The gates and directions of a degree, IN first. -/
def bothDirs : List Dir := [.inward, .outward]

/-- The read holds whose 50 µs have passed (R17). -/
def State.dueHolds (s : State) : List Instr := dueIn Config.holdRecords s.holdDue .readHoldExpiry

/-- The link timers that are reached (R166, R167). -/
def State.dueLinks (s : State) : List Instr :=
  ((lineDegrees.filter s.livenessDue).map .livenessExpiry)
    ++ ((lineDegrees.filter fun d => dueFrom (s.link d).aliveFrom aliveLength s.now).map .aliveTimerExpiry)
    ++ (if dueFrom s.slc.freshFrom freshLength s.now then [.freshPeriodEnd] else [])

/-- The snapshot entries that expire (R28). -/
def State.dueEntries (s : State) : List Instr :=
  (List.zip (List.range Config.snapEntries) s.msu.entries.cells).filterMap fun x =>
    if !x.2.expired && dueFrom x.2.snoop entryLife s.now then
      some (.entryExpired (x.1 / 192 + 1) (if x.1 / 96 % 2 = 0 then .inward else .outward) (x.1 % 96))
    else none

/-- The settle deadlines that are reached, of adoption and of intakes (R184, R55). -/
def State.dueSettles (s : State) : List Instr :=
  (List.zip (List.range Config.gridEntries) s.cg.settlements.cells).filterMap fun x =>
    match x.2 with
    | .waiting w =>
      if w.deadline.due s.now then
        some (if s.isAdopting then .adoptionSettleDeadline (x.1 / 96) (x.1 % 96) else .intakeSettleDeadline (x.1 / 96) (x.1 % 96))
      else none
    | .unread => none
    | .settled => none

/-- The timers of participations and of gates that are reached (R34, R91, R97, R104). -/
def State.duePaths (s : State) : List Instr :=
  dueIn Config.entries s.measurementDue .measurementDeadline
    ++ dueIn Config.entries s.orphanDue .orphanTimerExpiry
    ++ ((s.pa.returns.filter fun r => Timer.due ⟨r.created, returnLength⟩ s.now).map fun _ => .commitReturnExpiry)
    ++ lineDegrees.flatMap fun d => (bothDirs.filter (s.gateDue d)).map (.gateHoldLimitExpiry d)

/-- The command that a job's timer becomes when it is reached. -/
def JobTimerKind.expiry (k : JobTimerKind) (j : Nat) : Instr :=
  match k with
  | .confirmWindow => .confirmWindowExpiry j
  | .readyBusyWindow => .readyBusyWindowExpiry j
  | .reportWindow => .reportWindowExpiry j
  | .committedWindow => .committedWindowExpiry j
  | .settle => .settleTimerExpiry j
  | .retry => .retryDelayEnd j
  | .wait => .remeasureWaitEnd j
  | .unwind => .unwindTimerExpiry j

/-- The timers of jobs that are reached (R96, R118, R140). -/
def State.dueJobs (s : State) : List Instr :=
  ((List.range Config.jobs).filterMap fun j =>
    match (s.job j).bind Job.timer with
    | some t => if t.timer.due s.now then some (t.kind.expiry j) else none
    | none => none)
    ++ dueIn Config.jobs s.keepDue .keepTimerExpiry

/-- Every command of the passing of time that is due at this count of the time base, in one fixed order. -/
def State.dueCommands (s : State) : List Instr :=
  s.dueEntries ++ s.dueSettles ++ s.dueLinks ++ s.duePaths ++ s.dueJobs
    ++ (lineDegrees.filter s.watchDue).map .driftWatchExpiry

/-- A microsecond passes: the clock moves on, and what is now due waits to be taken. The read holds are measured in
microseconds, everything else in counts of the time base. Time stands still in reset (00_scope.md section 5). -/
def State.tick (s : State) : State :=
  if s.mode = .inReset then s
  else
    let t := { s with clock := s.clock.next }
    { t with pending := t.dueHolds ++ (if t.clock.us = 0 then t.dueCommands else []) }

end Sys2Proof.Machine
end

