-- ==== Sys2Proof/Machine/Dispatch.lean ====
section
/-! DEFINITION. One arm per command: each is one direct call of its meaning. -/

namespace Sys2Proof.Machine

/-- The command's effect on everything but the queue. -/
def exec (i : Instr) (s : State) : Host.Outcome State Fault Refusal :=
  match i with
  | .upstreamTransaction t => Sys2Proof.Machine.execUpstreamTransaction t s
  | .forwardedWriteGrant => Sys2Proof.Machine.execForwardedWriteGrant s
  | .checkReadAnswer answer => Sys2Proof.Machine.execCheckReadAnswer answer s
  | .forwardedReadGrant => Sys2Proof.Machine.execForwardedReadGrant s
  | .forwardedTransactionComplete ok data => Sys2Proof.Machine.execForwardedTransactionComplete ok data s
  | .partAccessGrant => Sys2Proof.Machine.execPartAccessGrant s
  | .readHoldExpiry record => Sys2Proof.Machine.execReadHoldExpiry record s
  | .powerOnReset => Sys2Proof.Machine.execPowerOnReset s
  | .resetnAsserted => Sys2Proof.Machine.execResetnAsserted s
  | .resetEnd straps => Sys2Proof.Machine.execResetEnd straps s
  | .producerWordReadAnswer answer => Sys2Proof.Machine.execProducerWordReadAnswer answer s
  | .adoptionCellReadAnswer answer => Sys2Proof.Machine.execAdoptionCellReadAnswer answer s
  | .adoptionSettleDeadline egress slot => Sys2Proof.Machine.execAdoptionSettleDeadline egress slot s
  | .entryExpired degree dir slot => Sys2Proof.Machine.execEntryExpired degree dir slot s
  | .measurementDeadline entry => Sys2Proof.Machine.execMeasurementDeadline entry s
  | .driftWatchExpiry degree => Sys2Proof.Machine.execDriftWatchExpiry degree s
  | .intakeCellReadAnswer answer => Sys2Proof.Machine.execIntakeCellReadAnswer answer s
  | .intakeSettleDeadline degree slot => Sys2Proof.Machine.execIntakeSettleDeadline degree slot s
  | .orderLowerReadAnswer answer => Sys2Proof.Machine.execOrderLowerReadAnswer answer s
  | .orderUpperReadError => Sys2Proof.Machine.execOrderUpperReadError s
  | .badKind upper => Sys2Proof.Machine.execBadKind upper s
  | .turnUp upper => Sys2Proof.Machine.execTurnUp upper s
  | .suspend upper => Sys2Proof.Machine.execSuspend upper s
  | .resume upper => Sys2Proof.Machine.execResume upper s
  | .abort upper => Sys2Proof.Machine.execAbort upper s
  | .release upper => Sys2Proof.Machine.execRelease upper s
  | .clearWatch upper => Sys2Proof.Machine.execClearWatch upper s
  | .loadProfile upper => Sys2Proof.Machine.execLoadProfile upper s
  | .loadTable upper => Sys2Proof.Machine.execLoadTable upper s
  | .setNode upper => Sys2Proof.Machine.execSetNode upper s
  | .badFrame link bytes => Sys2Proof.Machine.execBadFrame link bytes s
  | .alive link flags => Sys2Proof.Machine.execAlive link flags s
  | .claim link key step body => Sys2Proof.Machine.execClaim link key step body s
  | .confirm link key step display => Sys2Proof.Machine.execConfirm link key step display s
  | .refuse link key step cause hop => Sys2Proof.Machine.execRefuse link key step cause hop s
  | .intent link key step att target => Sys2Proof.Machine.execIntent link key step att target s
  | .ready link key step => Sys2Proof.Machine.execReady link key step s
  | .busy link key step hop => Sys2Proof.Machine.execBusy link key step hop s
  | .measure link key step att target => Sys2Proof.Machine.execMeasure link key step att target s
  | .report link key step display => Sys2Proof.Machine.execReport link key step display s
  | .stepEnd link key step decision => Sys2Proof.Machine.execStepEnd link key step decision s
  | .commit link key step => Sys2Proof.Machine.execCommit link key step s
  | .committed link key step => Sys2Proof.Machine.execCommitted link key step s
  | .abortFrame link key step cause => Sys2Proof.Machine.execAbortFrame link key step cause s
  | .alarm link key step cause hop => Sys2Proof.Machine.execAlarm link key step cause hop s
  | .keep link key step => Sys2Proof.Machine.execKeep link key step s
  | .livenessExpiry link => Sys2Proof.Machine.execLivenessExpiry link s
  | .aliveTimerExpiry link => Sys2Proof.Machine.execAliveTimerExpiry link s
  | .freshPeriodEnd => Sys2Proof.Machine.execFreshPeriodEnd s
  | .frameSent link => Sys2Proof.Machine.execFrameSent link s
  | .orphanTimerExpiry entry => Sys2Proof.Machine.execOrphanTimerExpiry entry s
  | .keepTimerExpiry job => Sys2Proof.Machine.execKeepTimerExpiry job s
  | .commitReturnExpiry => Sys2Proof.Machine.execCommitReturnExpiry s
  | .gateHoldLimitExpiry degree dir => Sys2Proof.Machine.execGateHoldLimitExpiry degree dir s
  | .confirmWindowExpiry job => Sys2Proof.Machine.execConfirmWindowExpiry job s
  | .readyBusyWindowExpiry job => Sys2Proof.Machine.execReadyBusyWindowExpiry job s
  | .reportWindowExpiry job => Sys2Proof.Machine.execReportWindowExpiry job s
  | .committedWindowExpiry job => Sys2Proof.Machine.execCommittedWindowExpiry job s
  | .settleTimerExpiry job => Sys2Proof.Machine.execSettleTimerExpiry job s
  | .retryDelayEnd job => Sys2Proof.Machine.execRetryDelayEnd job s
  | .remeasureWaitEnd job => Sys2Proof.Machine.execRemeasureWaitEnd job s
  | .unwindTimerExpiry job => Sys2Proof.Machine.execUnwindTimerExpiry job s
  | .blockWriteAnswer ok => Sys2Proof.Machine.execBlockWriteAnswer ok s
  | .stepWriteAnswer ok => Sys2Proof.Machine.execStepWriteAnswer ok s
  | .routeWriteAnswer ok => Sys2Proof.Machine.execRouteWriteAnswer ok s
  | .commitWriteAnswer ok => Sys2Proof.Machine.execCommitWriteAnswer ok s
  | .restoreWriteAnswer ok => Sys2Proof.Machine.execRestoreWriteAnswer ok s
  | .reportRecordWriteAnswer ok => Sys2Proof.Machine.execReportRecordWriteAnswer ok s
  | .reportHeaderWriteAnswer ok => Sys2Proof.Machine.execReportHeaderWriteAnswer ok s
  | .statusWriteAnswer ok => Sys2Proof.Machine.execStatusWriteAnswer ok s

end Sys2Proof.Machine
end

