-- ==== Sys2Proof/Safety.lean ====
section
/-! DEFINITION. What the claims speak of: the bounds and shapes that every step keeps, what one event may do to the shelf
side, and what the arbiter may grant. Each cites the sentence of the manual it stands for. -/

namespace Sys2Proof.Machine

/-! ## The configuration (R67, R69, R71) -/

/-- The ranges of a profile (R67). -/
structure Profile.InRange (p : Profile) : Prop where
  minStep : 1 ≤ p.minStep ∧ p.minStep ≤ 200
  maxStep : p.minStep ≤ p.maxStep ∧ p.maxStep ≤ 300
  leadIn : p.leadIn ≤ 7
  settle : p.settle = 20 ∨ p.settle = 50 ∨ p.settle = 200 ∨ p.settle = 1000
  start : 1000 ≤ p.start ∧ p.start ≤ 2500
  visibility : p.visibility ≤ 2500

/-- The ranges of a line degree's settings (R71). -/
structure DegreeSettings.InRange (x : DegreeSettings) : Prop where
  budget : 10 ≤ x.budget ∧ x.budget ≤ 300
  limit : x.budget + 10 ≤ x.limit ∧ x.limit ≤ 600
  driftLimit : 10 ≤ x.driftLimit ∧ x.driftLimit ≤ 500
  driftInterval : x.driftInterval = 500 ∨ x.driftInterval = 2000 ∨ x.driftInterval = 10000 ∨ x.driftInterval = 30000
  floor : x.floor ≤ 2500
  express : x.express ≤ 2500

/-- The ranges of the configuration (R67, R69, R71). -/
structure Settings.InRange (c : Settings) : Prop where
  nodeId : c.node.nodeId ≠ 65535
  drop : c.node.drop ≤ 2500
  period : 100 ≤ c.node.period ∧ c.node.period ≤ 2000
  degrees : ∀ d, 1 ≤ d → d ≤ 4 → (c.node.perDegree.get (d - 1)).InRange
  profiles : ∀ i, i < 4 → (c.profiles.get i).InRange
  sensitivity : ∀ i, i < 32 → c.sensitivity.get i ≤ 4000

/-! ## The grid (R40, R41) -/

/-- A grid entry has an owner exactly in RESERVED and RAMPING, and a commit level or a flag only in IN_SERVICE (R40). -/
structure GridEntry.Shaped (g : GridEntry) : Prop where
  owner : g.owner.isSome = true ↔ g.state = .reserved ∨ g.state = .ramping
  level : g.state ≠ .inService → g.commitLevel = none
  flags : g.state ≠ .inService → g.drift = false ∧ g.loss = false

/-- Every grid entry is so shaped. -/
def State.GridShaped (s : State) : Prop := ∀ e slot, e ≤ 4 → slot < 96 → (s.grid e slot).Shaped

/-! ## Step gates (R102) -/

/-- Each held gate's holder is a live entry whose watched direction is that gate's, and every live entry watches a line
degree (R102, R78). -/
structure State.GatesHeldByWatchers (s : State) : Prop where
  watched : ∀ p x, s.entry p = some x → 1 ≤ x.watched.1 ∧ x.watched.1 ≤ 4
  holder : ∀ d dir h, 1 ≤ d → d ≤ 4 → s.gate d dir = some h →
    ∃ x, s.entry h.holder = some x ∧ x.watched = (d, dir) ∧ x.key = h.key

/-! ## Jobs (R64, R128, R139, R141) -/

/-- The bounds of a job record (R128, R139, R141). -/
structure Job.Bounded (x : Job) : Prop where
  stack : x.stack.length ≤ 8
  stepNo : x.stepNo ≤ 255
  backoffs : x.backoffs ≤ 3
  unmeasuredRun : x.unmeasuredRun ≤ 3
  noRoomRun : x.noRoomRun ≤ 3
  silentRun : x.silentRun ≤ 2
  busyRun : x.busyRun ≤ 40
  steps : x.steps ≤ 255
  factors : ∀ h ∈ x.hops, 1000 ≤ h.factor ∧ h.factor ≤ 4000

/-- The job record of number j is that of a key with number j, at a line cell, and within its bounds. -/
structure State.JobsBounded (s : State) : Prop where
  number : ∀ j x, s.job j = some x → x.key.job.toNat = j
  place : ∀ j x, s.job j = some x → 1 ≤ x.egress ∧ x.egress ≤ 4 ∧ x.slot < 96
  bounds : ∀ j x, s.job j = some x → x.Bounded

/-- An attenuation is at least a number of hdB; BLOCK is above every number. -/
def Atten.atLeast (a : Atten) (n : Nat) : Prop :=
  match a with
  | .hdb m => n ≤ m
  | .block => True

/-- One attenuation is at most another. -/
def Atten.le : Atten → Atten → Prop
  | .hdb m, .hdb n => m ≤ n
  | .hdb _, .block => True
  | .block, .hdb _ => False
  | .block, .block => True

/-- The phase in which each timer and window of a job runs (R140). -/
def JobTimerKind.phase : JobTimerKind → Phase
  | .confirmWindow => .claiming
  | .readyBusyWindow => .gating
  | .reportWindow => .measuring
  | .committedWindow => .committing
  | .settle => .settling
  | .retry => .waiting
  | .wait => .waiting
  | .unwind => .unwinding

/-- A job's attenuation, and each value its rollback stack holds, is at or above its clamped target, the values rise from
the attenuation down the stack, and a held plan does not pass the target (R131, R146). -/
structure Job.AboveTarget (x : Job) : Prop where
  target : x.target ≤ 2500
  att : x.att.atLeast x.target
  rising : (x.att :: x.stack).Pairwise Atten.le
  start : ∀ a, x.startAtt = some a → x.target ≤ a
  plan : ∀ p a, x.phase ≠ .unwinding → x.plan = some p → x.att = .hdb a → x.target + p.delta ≤ a
  timer : ∀ t, x.timer = some t → t.kind.phase = x.phase

/-- Every job stays at or above its target. -/
def State.JobsAboveTarget (s : State) : Prop := ∀ j x, s.job j = some x → x.AboveTarget

/-- A job that has a participation finds it live, a HEAD or LOCAL entry under its own key with its egress and slot (R77,
R139). -/
structure State.JobsHaveEntries (s : State) : Prop where
  number : ∀ j x, s.job j = some x → x.key.job.toNat = j
  entry : ∀ j x p, s.job j = some x → x.entry = some p →
    ∃ y, s.entry p = some y ∧ y.key = x.key ∧ y.role.isTransitOrTail = false ∧ y.egress = x.egress ∧ y.slot = x.slot

/-! ## Owners (R41, R76) -/

/-- Every RESERVED or RAMPING grid entry is owned by a live participation with that egress and slot, and every live
participation owns its grid entry, RESERVED or RAMPING; a tail's egress is L, and every other's a line degree (R41). -/
structure State.CellsMatchEntries (s : State) : Prop where
  owners : ∀ e slot, e ≤ 4 → slot < 96 →
    ((s.grid e slot).state = .reserved ∨ (s.grid e slot).state = .ramping) →
    ∃ p x, p < 32 ∧ (s.grid e slot).owner = some p ∧ s.entry p = some x ∧ x.egress = e ∧ x.slot = slot
  owned : ∀ p x, s.entry p = some x → x.egress ≤ 4 ∧ x.slot < 96 ∧ (s.grid x.egress x.slot).owner = some p ∧
    ((s.grid x.egress x.slot).state = .reserved ∨ (s.grid x.egress x.slot).state = .ramping)
  tails : ∀ p x, s.entry p = some x → (x.role = .tail ↔ x.egress = 0)

/-- Every HEAD or LOCAL participation is that of the live job that its key names, so that at most 8 are live; a
COMMITTING job has none, and a job's timer runs in its phase (R76, R140, R147). -/
structure State.HeadsHaveJobs (s : State) : Prop where
  heads : ∀ p x, s.entry p = some x → x.role.isTransitOrTail = false →
    ∃ y, s.job x.key.job.toNat = some y ∧ y.key = x.key ∧ y.entry = some p
  committing : ∀ j y, s.job j = some y → y.phase = .committing → y.entry = none
  timers : ∀ j y t, s.job j = some y → y.timer = some t → t.kind.phase = y.phase

/-- A job that neither commits nor closes has a participation (R76, R147, R152), and an intake runs only in RUNNING: a
SET_NODE begins it (R55, R58). -/
structure State.WorkHasItsPlace (s : State) : Prop where
  participates : ∀ j y, s.job j = some y → y.phase ≠ .committing → y.closing = false → y.entry ≠ none
  intakes : s.mode ≠ .running → ∀ d, s.inIntake d = false

/-- The purposes of the reads of cells. -/
def Purpose.readsCell : Purpose → Option (Nat × Nat)
  | .adoptCell e slot => some (e, slot)
  | .intakeCell d slot false => some (d, slot)
  | _ => none

/-- The reads of cells that are pending or hold the port. -/
def BusInterposer.cellReads (b : BusInterposer) : List (Nat × Nat) :=
  (match b.port with
    | .part r => r.purpose.readsCell.toList
    | _ => []) ++ b.parts.filterMap fun r => r.purpose.readsCell

/-- A part access is pending or holds the port. -/
def BusInterposer.Asks (b : BusInterposer) (r : PartReq) : Prop := b.port = .part r ∨ r ∈ b.parts

/-- While the device resets or adopts it has no participation, no job and no order in hand, and in reset no forwarded
transaction and a FREE grid; an intake runs in no reset (R23, R40, R58, R182). -/
structure State.QuietBeforeRunning (s : State) : Prop where
  entries : s.mode ≠ .running → ∀ p, s.entry p = none
  jobs : s.mode ≠ .running → ∀ j, s.job j = none
  reader : s.mode ≠ .running → s.ord.reader = .waiting
  orders : ∀ r, s.shelf.bus.Asks r → (r.purpose = .orderLower ∨ r.purpose = .orderUpper) → s.mode = .running
  reset : s.mode = .inReset → s.shelf.bus.accepted = [] ∧ s.shelf.bus.port.isForwarded = false ∧
    (∀ d, s.inIntake d = false) ∧ ∀ e slot, e ≤ 4 → slot < 96 → (s.grid e slot).state = .free

/-- A cell not yet settled is a governed one, in adoption or in its degree's intake, and its entry is FREE, as is every
entry of an unequipped degree; each read of a cell is of one that is unread, and there is one for each (R40, R55, R182,
R183). -/
structure State.UnsettledAreFree (s : State) : Prop where
  free : ∀ e slot, e ≤ 4 → slot < 96 → s.settlement e slot ≠ .settled →
    (s.grid e slot).state = .free ∧ s.governed e = true ∧ (s.mode = .running → s.inIntake e = true)
  unequipped : ∀ d slot, 1 ≤ d → d ≤ 4 → slot < 96 → s.isEquipped d = false → (s.grid d slot).state = .free
  adopts : ∀ r e slot, s.shelf.bus.Asks r → r.purpose = .adoptCell e slot →
    e ≤ 4 ∧ slot < 96 ∧ s.mode = .adopting ∧ s.settlement e slot = .unread
  takes : ∀ r d slot, s.shelf.bus.Asks r → r.purpose = .intakeCell d slot false →
    1 ≤ d ∧ d ≤ 4 ∧ slot < 96 ∧ s.inIntake d = true ∧ s.settlement d slot = .unread
  once : s.shelf.bus.cellReads.Nodup

/-- While a check read stands, the cells of the beats that wait for it are governed line cells, each named once, whose
grid entries are in the state that they had at the grant: IN_SERVICE where the check read covers the beat, else FREE
(R6). -/
def State.WaitingBeatsStand (s : State) : Prop :=
  ∀ f, s.shelf.bus.port = .checkRead f → s.mode = .running ∧
    ((f.beats.filter fun b => b.out.isNone).map fun b => regionOf s.shelf.bus.winsel b.addr).Nodup ∧
    ∀ b ∈ f.beats, b.out = none → ∀ e slot, regionOf s.shelf.bus.winsel b.addr = .cell e slot →
      1 ≤ e ∧ s.isEquipped e = true ∧ s.inIntake e = false ∧
      (s.grid e slot).state = if b.checked = true then .inService else .free

/-- Owners match, with what that rests on. -/
structure State.OwnersMatch (s : State) : Prop where
  grid : s.GridShaped
  cells : s.CellsMatchEntries
  jobs : s.JobsHaveEntries
  heads : s.HeadsHaveJobs
  quiet : s.QuietBeforeRunning
  unsettled : s.UnsettledAreFree
  beats : s.WaitingBeatsStand

/-! ## The bus and the report ring (R1, R16, R17, R20, R172) -/

/-- The bounds of the bus and of the report ring (R1, R20, R172). -/
structure Shelf.Bounded (sh : Shelf) : Prop where
  held : sh.bus.held ≤ 4
  count : sh.bus.bGrants ≤ 4
  producer : sh.rw.producer < 128
  consumer : sh.rw.consumer < 128
  drops : sh.rw.drops ≤ 255
  queue : sh.rw.queue.length ≤ 64
  flight : ∀ f, sh.rw.flight = some f → 1 ≤ f.left ∧ f.left ≤ 8

/-- A snoop that MSU takes: of the monitor table or of a sweep header (R13). -/
def Snoop.isCopy : Snoop → Bool
  | .reading _ _ _ _ => true
  | .header _ _ => true
  | .producer _ _ => false
  | .consumer _ => false

/-- A write at the port that has earned a copy is the scanner's, so that none of its beats is a foreign one (R13). -/
def BusInterposer.CopiesAreTheScanners (b : BusInterposer) : Prop :=
  ∀ f, b.port = .checkRead f ∨ b.port = .write f → ∀ x ∈ f.beats.filterMap FwdBeat.snoop, x.isCopy = true → f.foreignBeats = []

/-- At most one part write is pending to a word (R16). -/
def BusInterposer.OneWritePerWord (b : BusInterposer) : Prop :=
  (b.parts.filter fun r => r.data.isSome).Pairwise fun q r => q.offset ≠ r.offset

/-- The deferred values of a hold stand in ascending word order, one for each word, and only an open hold has any (R17).
-/
structure Hold.Ordered (h : Hold) : Prop where
  ascending : h.deferred.Pairwise fun x y => x.1 < y.1
  closed : h.opened = none → h.deferred = []

/-- Pending and deferred writes are as R16 and R17 say. -/
structure BusInterposer.WritesOrdered (b : BusInterposer) : Prop where
  pending : b.OneWritePerWord
  deferred : ∀ r, r < 10 → (b.holds.get r).Ordered

/-! ## The snapshot and the links (R25, R162) -/

/-- A snapshot entry holds a level, in −6000..2500, exactly when its class is FINITE, and a pilot of 0..4095 (R25). -/
structure SnapEntry.Shaped (x : SnapEntry) : Prop where
  level : ∀ l, x.level = some l → x.cls = .finite ∧ -6000 ≤ l ∧ l ≤ 2500
  finite : x.cls = .finite → x.level.isSome = true
  pilot : x.pilot ≤ 4095

/-- Every snapshot entry is so shaped. -/
def State.SnapshotShaped (s : State) : Prop := ∀ i, i < Config.snapEntries → (s.msu.entries.get i).Shaped

/-- A link record (R162): a DISABLED link has no timer, an empty queue and no record of its neighbour; only an UP link has
a liveness expiry; the queue holds at most 8 frames and the count saturates. -/
structure Link.Shaped (l : Link) : Prop where
  disabled : l.state = .disabled → l.heardAt = none ∧ l.aliveFrom = none ∧ l.queue = [] ∧ l.neighbour = .unknown
  down : l.state = .down → l.heardAt = none ∧ l.aliveFrom.isSome = true ∧ l.neighbour = .unknown
  up : l.state = .up → l.heardAt.isSome = true ∧ l.aliveFrom.isSome = true
  queue : l.queue.length ≤ 8
  badFrames : l.badFrames ≤ 65535

/-- Every link record is so shaped. -/
def State.LinksShaped (s : State) : Prop := ∀ d, 1 ≤ d → d ≤ 4 → (s.link d).Shaped

/-- The order ring's indices lie in the ring (R57). -/
structure OrderReader.InRing (o : OrderReader) : Prop where
  consumer : o.consumer < 32
  target : o.target < 32
  remembered : ∀ v, o.remembered = some v → v < 32

/-! ## What an event may do to the shelf side -/

/-- From one state of the shelf side to another, nothing happened but that part accesses and reports were produced: what
the masters asked, what holds the port, which holds are open, the answers given and the ring's indices are as they were
(R2, R173). -/
structure Shelf.OnlyProduces (a b : Shelf) : Prop where
  winsel : b.bus.winsel = a.bus.winsel
  offers : b.bus.offers = a.bus.offers
  accepted : b.bus.accepted = a.bus.accepted
  headWaits : b.bus.headWaits = a.bus.headWaits
  port : b.bus.port = a.bus.port
  bGrants : b.bus.bGrants = a.bus.bGrants
  answers : b.bus.answers = a.bus.answers
  opened : ∀ r, (b.bus.holds.get r).opened = (a.bus.holds.get r).opened
  producer : b.rw.producer = a.rw.producer
  consumer : b.rw.consumer = a.rw.consumer

/-- An event was submitted on the way from one state of the shelf side to another: it waits in the publication queue, it
is the record in flight, or a record was lost and counted (R173 to R175). -/
def Shelf.Submitted (a b : Shelf) (e : Event) : Prop :=
  e ∈ b.rw.queue ∨ b.rw.flight.map Flight.event = some e ∨ a.rw.drops < b.rw.drops ∨ b.rw.drops = dropLimit

/-- A write of a word of this class and for this purpose is pending. -/
def Shelf.Writes (sh : Shelf) (cls : ReqClass) (o : Nat) (w : Word) (p : Purpose) : Prop :=
  ∃ r ∈ sh.bus.parts, r.cls = cls ∧ r.offset = o ∧ r.data = some w ∧ r.purpose = p

/-- No event is being taken: what an event marks for its status updates is empty. -/
def State.Between (s : State) : Prop := s.marks = Marks.none

/-! ## Orders (R59, R60) -/

/-- The upper half of an order record is being read (R59). -/
def State.AwaitsOrder (s : State) : Prop := ∃ r, s.shelf.bus.port = .part r ∧ r.purpose = .orderUpper

/-- The order record that an answer to the second read completes (R59). -/
def State.orderWith (s : State) (upper : List Word) : OrderRecord := s.lowerHalf ++ upper

/-- An order ended: the consumer index advanced by 1, from 31 to 0, the target and the remembered value are as they were,
and OR is IDLE at its target, else it reads the lower half of the next order (R59, R60). -/
structure State.OrderEnds (s t : State) : Prop where
  consumer : t.ord.consumer = (s.ord.consumer + 1) % 32
  target : t.ord.target = s.ord.target
  remembered : t.ord.remembered = s.ord.remembered
  idle : t.ord.consumer = t.ord.target → t.ord.reader = .idle
  reads : t.ord.consumer ≠ t.ord.target → t.ord.reader = .readingLower ∧
    ∃ r ∈ t.shelf.bus.parts, r.cls = .d ∧ r.offset = 0x2000 + t.ord.consumer * 128 ∧ r.beats = 16 ∧ r.data = none ∧
      r.purpose = .orderLower

/-! ## The ends of adoption and of an intake (R56, R185) -/

/-- Every cell is settled, and the producer word's read is answered: adoption is to end (R185). -/
def State.AdoptionDone (s : State) : Prop :=
  s.adoption.producerRead = true ∧ ∀ e slot, e ≤ 4 → slot < 96 → s.settlement e slot = .settled

/-- The number of cells of the egresses chosen whose grid entry is in a state. -/
def State.cellsIn (s : State) (egress : Nat → Bool) (g : GridState) : Nat :=
  ((List.range 480).filter fun i => egress (i / 96) && (s.grid (i / 96) (i % 96)).state == g).length

/-- ADOPTED with its three counts over the egresses chosen (R185, section 12.2). -/
def State.adoptedRecord (s : State) (degree : Option Nat) (egress : Nat → Bool) : Event :=
  { s.event .adopted with
    egress := degree
    value1 := packWord [⟨s.cellsIn egress .free, 0, 9⟩, ⟨s.cellsIn egress .inService, 16, 9⟩]
    value2 := packWord [⟨s.cellsIn egress .quarantined, 0, 9⟩] }

/-- The event from s to u ended adoption, with OR at this consumer index and this target: ADOPTED with the counts over L
and the degrees equipped at its beginning; RUNNING, with the node status record's update; the watch of each equipped
degree started; the fresh period started; OR out of WAITING with a remembered value as its target, and the read of its
first order behind every other part access, the status writes among them (R58, R185). -/
structure State.EndsAdoption (s u : State) (consumer target : Nat) : Prop where
  running : u.mode = .running
  adopted : Shelf.Submitted s.shelf u.shelf (u.adoptedRecord none fun e => e == 0 || maskHas s.adoption.equipped e)
  node : u.shelf.rw.books.get 0 = ⟨(s.shelf.rw.books.get 0).seq + 1,
    some (withSequence ((s.shelf.rw.books.get 0).seq + 1) u.nodeContent)⟩
  watches : ∀ d, 1 ≤ d → d ≤ 4 →
    u.watch d = if s.isEquipped d = true then some ⟨s.now, (s.degree d).driftInterval⟩ else s.watch d
  fresh : u.slc.freshFrom = some s.now
  order : u.ord.consumer = consumer ∧ u.ord.target = s.ord.remembered.getD target ∧ u.ord.remembered = none
  idle : u.ord.consumer = u.ord.target → u.ord.reader = .idle
  reads : u.ord.consumer ≠ u.ord.target → u.ord.reader = .readingLower ∧
    ∃ r, u.shelf.bus.parts.getLast? = some r ∧ r.cls = .d ∧ r.offset = 0x2000 + consumer * 128 ∧ r.beats = 16 ∧
      r.data = none ∧ r.purpose = .orderLower ∧
      ((s.shelf.bus.holds.get 0).opened = none → ∃ q ∈ u.shelf.bus.parts.dropLast, q.cls = .d ∧ q.offset = 0x3100 ∧
        q.purpose = .status ∧ q.data = some (u.nodeContent.getD 0 0 ||| ((s.shelf.rw.books.get 0).seq + 1).setWidth 32))

/-- Adoption goes on: nothing that its end does has happened. -/
structure State.StaysAdopting (s u : State) : Prop where
  adopting : u.mode = .adopting
  node : u.shelf.rw.books.get 0 = s.shelf.rw.books.get 0
  watches : u.cg.watches = s.cg.watches
  fresh : u.slc.freshFrom = s.slc.freshFrom
  remembered : u.ord.remembered = s.ord.remembered
  reader : u.ord.reader = s.ord.reader

/-- What an event that settles cells of degree d, in intake, does about that intake: where every cell of d is settled
the intake ends, with ADOPTED naming d and the counts over d, and the watch of d started; else it goes on. Other intakes
and other watches are as they were (R56). -/
structure State.TendsIntake (s u : State) (d : Nat) : Prop where
  ends : (∀ k, k < 96 → u.settlement d k = .settled) → u.inIntake d = false ∧
    u.watch d = some ⟨s.now, (s.degree d).driftInterval⟩ ∧
    Shelf.Submitted s.shelf u.shelf (u.adoptedRecord (some d) fun e => e == d)
  goesOn : (∃ k, k < 96 ∧ u.settlement d k ≠ .settled) → u.inIntake d = true ∧ u.watch d = s.watch d
  others : ∀ c, 1 ≤ c → c ≤ 4 → c ≠ d → u.inIntake c = s.inIntake c ∧ u.watch c = s.watch c

/-! ## Timers (00_scope.md section 5) -/

/-- This many milliseconds have passed since a moment. -/
def State.Past (s : State) (start : Time) (length : Nat) : Prop := length ≤ (s.now - start).toNat

/-- Job j's one timer is of this kind, and it has run out (R118, R140). -/
def State.JobTimerPast (s : State) (j : Nat) (k : JobTimerKind) : Prop :=
  j < 8 ∧ ∃ x t, s.job j = some x ∧ x.timer = some t ∧ t.kind = k ∧ s.Past t.timer.start t.timer.length

/-- The timer that a command of the passing of time stands for has run out; no other command is one of the passing of
time, but the read hold's, which is measured in microseconds (R17, R28, R34, R49, R55, R91, R96, R97, R104, R118, R140,
R166, R167, R184). -/
def State.Due (s : State) : Instr → Prop
  | .entryExpired d dir k => 1 ≤ d ∧ d ≤ 4 ∧ k < 96 ∧ (s.snap d dir k).expired = false ∧
      ∃ t, (s.snap d dir k).snoop = some t ∧ s.Past t 6000
  | .adoptionSettleDeadline e k => e ≤ 4 ∧ k < 96 ∧ s.mode = .adopting ∧
      ∃ w, s.settlement e k = .waiting w ∧ s.Past w.deadline.start w.deadline.length
  | .intakeSettleDeadline d k => d ≤ 4 ∧ k < 96 ∧ s.mode ≠ .adopting ∧
      ∃ w, s.settlement d k = .waiting w ∧ s.Past w.deadline.start w.deadline.length
  | .livenessExpiry d => 1 ≤ d ∧ d ≤ 4 ∧ (s.link d).state = .up ∧ ∃ t, (s.link d).heardAt = some t ∧ s.Past t 350
  | .aliveTimerExpiry d => 1 ≤ d ∧ d ≤ 4 ∧ ∃ t, (s.link d).aliveFrom = some t ∧ s.Past t 100
  | .freshPeriodEnd => ∃ t, s.slc.freshFrom = some t ∧ s.Past t 1000
  | .measurementDeadline p => p < 32 ∧ ∃ x m, s.entry p = some x ∧ x.measurement = some m ∧
      s.Past m.deadline.start m.deadline.length
  | .orphanTimerExpiry p => p < 32 ∧ ∃ x t, s.entry p = some x ∧ x.orphanFrom = some t ∧ s.Past t 10000
  | .commitReturnExpiry => ∃ r ∈ s.pa.returns, s.Past r.created 1050
  | .gateHoldLimitExpiry d dir => 1 ≤ d ∧ d ≤ 4 ∧ ∃ h, s.gate d dir = some h ∧ s.Past h.since 8000
  | .keepTimerExpiry j => j < 8 ∧ ∃ x t, s.job j = some x ∧ x.keepFrom = some t ∧ s.Past t 2000
  | .confirmWindowExpiry j => s.JobTimerPast j .confirmWindow
  | .readyBusyWindowExpiry j => s.JobTimerPast j .readyBusyWindow
  | .reportWindowExpiry j => s.JobTimerPast j .reportWindow
  | .committedWindowExpiry j => s.JobTimerPast j .committedWindow
  | .settleTimerExpiry j => s.JobTimerPast j .settle
  | .retryDelayEnd j => s.JobTimerPast j .retry
  | .remeasureWaitEnd j => s.JobTimerPast j .wait
  | .unwindTimerExpiry j => s.JobTimerPast j .unwind
  | .driftWatchExpiry d => 1 ≤ d ∧ d ≤ 4 ∧ ∃ w, s.watch d = some w ∧ s.Past w.start w.length
  | _ => False

/-! ## Aborts (R149, R150) -/

/-- A frame handed to the link of degree d joins the back of its queue, where the link is UP with fewer than 8 frames; no
other frame joins it (R169). -/
def State.Hands (s u : State) (d : Nat) (f : PathFrame) : Prop :=
  1 ≤ d → d ≤ 4 → (s.link d).state = .up → (s.link d).queue.length < 8 →
    (u.link d).queue = (s.link d).queue ++ [.path f]

/-- The frame that a job's head sends with its step number. -/
def Job.frame (x : Job) (b : FrameBody) : PathFrame := ⟨x.key, BitVec.ofNat 8 x.stepNo, b⟩

/-- Job j, which was x, takes an emergency abort: it is closing in UNWINDING with this cause, hop index and remote
cause, its attenuation BLOCK, its timer ended, its stack and plan discarded; its participation becomes closing with its
gate released, its measurement withdrawn and its closing BLOCK write pending in class (a) (R79, R142, R150). A PATH job
hands ABORT with the cause and its step number to its egress link, and its KEEP timer stops (R96, R150). Other jobs and
entries are as they were. -/
structure State.EmergencyAborts (s u : State) (j : Nat) (x : Job) (cause : Cause) (hop : Nat) (remote : Cause) : Prop where
  job : ∃ y, u.job j = some y ∧ y.key = x.key ∧ y.kind = x.kind ∧ y.egress = x.egress ∧ y.slot = x.slot ∧
    y.entry = x.entry ∧ y.phase = .unwinding ∧ y.closing = true ∧ y.emergency = true ∧ y.suspendPending = false ∧
    y.att = .block ∧ y.stack = [] ∧ y.plan = none ∧ y.timer = none ∧ y.cause = cause ∧ y.causeHop = hop ∧
    y.remoteCause = remote ∧ y.stepNo = x.stepNo ∧ y.hops = x.hops ∧ (x.isPath = true → y.keepFrom = none)
  others : ∀ i, i ≠ j → u.job i = s.job i
  entry : ∀ p e, x.entry = some p → s.entry p = some e →
    u.entry p = some { e with closing := true, measurement := none, ownRecord := none, heldReport := none } ∧
    (∀ h, u.gate e.watched.1 e.watched.2 = some h → h.holder ≠ p) ∧
    (e.egress ≤ 4 → e.slot < 96 →
      u.shelf.Writes .a (cellOffset e.egress e.slot) (mkCell x.source x.lastPilot .block) (.closing p))
  otherEntries : ∀ q, x.entry ≠ some q → u.entry q = s.entry q
  grid : u.cg = s.cg
  frame : x.isPath = true → s.Hands u x.egress (x.frame (.abort (BitVec.ofNat 8 cause.code)))

/-! ## Links and frames (R82, R98, R104, R169) -/

/-- The gate that participation p, which was x, held is still held by it, and its hold limit starts again (R104). -/
def State.GateRestarted (s u : State) (p : Nat) (x : Participation) : Prop :=
  ∀ g, s.gate x.watched.1 x.watched.2 = some g → g.holder = p →
    u.gate x.watched.1 x.watched.2 = some { g with since := s.now }

/-- A frame was discarded as stray with this mark: 0 wrong link, 1 no match, 2 out of turn (R82, section 12.2). -/
def State.StrayReported (s u : State) (d : Nat) (f : PathFrame) (mark : Word) : Prop :=
  ∃ ev, Shelf.Submitted s.shelf u.shelf ev ∧ ev.kind = .strayFrame ∧ ev.key = some f.key ∧ ev.value2 = mark ∧
    ev.value1 = packWord [⟨f.body.code, 0, 8⟩, ⟨f.step.toNat, 8, 8⟩, ⟨d, 16, 3⟩]

/-- PA acts on the loss of the link of degree d: every PATH job with that egress ends COMMIT_UNCONFIRMED in COMMITTING,
and is aborted PATH_LOST otherwise; every other job, and one already closing, is as it was; every transit with that
egress that is not closing raises ALARM(PATH_LOST), and no transit's or tail's entry changes (R94, R98, R148). -/
structure State.LosesPaths (s u : State) (d : Nat) : Prop where
  committing : ∀ j x, j < 8 → s.job j = some x → x.isPath = true → x.egress = d → x.phase = .committing → u.job j = none
  aborted : ∀ j x, j < 8 → s.job j = some x → x.isPath = true → x.egress = d → x.phase ≠ .committing → x.closing = false →
    ∃ y, u.job j = some y ∧ y.phase = .unwinding ∧ y.closing = true ∧ y.emergency = true ∧ y.att = .block ∧
      y.cause = .pathLost ∧ y.causeHop = 0
  kept : ∀ j x, s.job j = some x → (x.isPath = false ∨ x.egress ≠ d ∨ (x.closing = true ∧ x.phase ≠ .committing)) →
    u.job j = some x
  alarms : ∀ p x, p < 32 → s.entry p = some x → x.role = .transit → x.egress = d → x.closing = false →
    ∃ ev, Shelf.Submitted s.shelf u.shelf ev ∧ ev.kind = .alarmSent ∧ ev.key = some x.key ∧ ev.cause = 8
  entries : ∀ p x, s.entry p = some x → x.role.isTransitOrTail = true → u.entry p = some x
  grid : u.cg = s.cg

/-- Frames handed to the link of degree d at one event join the back of its queue in order, where the link is UP and has
room for all of them; no other frame joins it (R169). -/
def State.HandsAll (s u : State) (d : Nat) (fs : List PathFrame) : Prop :=
  1 ≤ d → d ≤ 4 → (s.link d).state = .up → (s.link d).queue.length + fs.length ≤ 8 →
    (u.link d).queue = (s.link d).queue ++ fs.map .path

/-! ## What a job does at a decision, and a graceful abort (R144, R145, R147, R151) -/

/-- No gate of the job's participation is held by it. -/
def State.GateReleased (s u : State) (x : Job) : Prop :=
  ∀ p e h, x.entry = some p → s.entry p = some e → u.gate e.watched.1 e.watched.2 = some h → h.holder ≠ p

/-- Job j, which was x, neither closing nor unwinding nor COMMITTING, takes a graceful abort (R151): its cycle ends with
STEP_END(RELEASE) and its gate released; where the cell is not at BLOCK it unwinds, first after one settle period; where
it is, the unwind of a PATH or LIGHT job ends at once, with the closing BLOCK write and ABORT (R152). A RAISE job never
stands at BLOCK (R157). -/
structure State.GracefullyAborts (s u : State) (j : Nat) (x : Job) (cause : Cause) (hop : Nat) : Prop where
  job : x.att ≠ .block ∨ x.kind ≠ .raise →
    ∃ y, u.job j = some y ∧ y.key = x.key ∧ y.egress = x.egress ∧ y.slot = x.slot ∧ y.entry = x.entry ∧
    y.stepNo = x.stepNo ∧ y.phase = .unwinding ∧ y.emergency = false ∧ y.cause = cause ∧ y.causeHop = hop ∧
    y.suspendPending = false ∧ y.plan = none ∧ y.ownRecord = none ∧ y.display = none ∧ y.hops = x.hops ∧
    (x.att ≠ .block → y.closing = false ∧ y.att = x.att ∧ y.stack = x.stack ∧
      y.timer = some ⟨.unwind, ⟨s.now, x.profile.settle⟩⟩) ∧
    (x.att = .block → x.kind ≠ .raise → y.closing = true ∧ y.att = .block ∧ y.stack = [] ∧ y.timer = none)
  others : ∀ i, i ≠ j → u.job i = s.job i
  gate : (x.phase.holdsCycle = true ∨ (x.att = .block ∧ x.kind ≠ .raise)) → s.GateReleased u x
  unwinds : x.att ≠ .block →
    (∀ p e, x.entry = some p → s.entry p = some e → u.entry p = some { e with measurement := none }) ∧
    (x.isPath = true → x.phase.holdsCycle = true → s.Hands u x.egress (x.frame (.stepEnd 2)))
  closes : x.att = .block → x.kind ≠ .raise →
    (∀ p e, x.entry = some p → s.entry p = some e →
      u.entry p = some { e with closing := true, measurement := none, ownRecord := none, heldReport := none } ∧
      (e.egress ≤ 4 → e.slot < 96 →
        u.shelf.Writes .a (cellOffset e.egress e.slot) (mkCell x.source x.lastPilot .block) (.closing p))) ∧
    (x.isPath = true →
      (x.phase.holdsCycle = false → s.Hands u x.egress (x.frame (.abort (BitVec.ofNat 8 cause.code)))) ∧
      (x.phase.holdsCycle = true →
        s.HandsAll u x.egress [x.frame (.stepEnd 2), x.frame (.abort (BitVec.ofNat 8 cause.code))]))

/-- Job j, which was x, backs off, for hop h (R145): a graceful abort at 3 backoffs, at step number 255, with nothing to
go back to, or with BLOCK on top of the stack; else the value on top is written, both runs become 0, and the ceiling
comes down (R130, R136, R142). -/
structure State.BacksOff (s u : State) (j : Nat) (x : Job) (h : Nat) : Prop where
  spent : 3 ≤ x.backoffs → s.GracefullyAborts u j x .budget h
  last : x.backoffs < 3 → 255 ≤ x.stepNo → s.GracefullyAborts u j x .stepLimit 0
  empty : x.backoffs < 3 → x.stepNo < 255 → x.stack = [] → s.GracefullyAborts u j x .budget h
  bottom : ∀ rest, x.backoffs < 3 → x.stepNo < 255 → x.stack = .block :: rest →
    s.GracefullyAborts u j { x with att := .block, stack := rest } .budget h
  writes : ∀ a rest, x.backoffs < 3 → x.stepNo < 255 → x.stack = .hdb a :: rest →
    u.shelf.Writes .c (cellOffset x.egress x.slot) (mkCell x.source x.pilot (.hdb a)) (.step x.key) ∧
    ∃ y, u.job j = some y ∧ y.att = .hdb a ∧ y.stack = rest ∧ y.backoffs = x.backoffs + 1 ∧ y.stepNo = x.stepNo + 1 ∧
      y.phase = .settling ∧ y.timer = some ⟨.settle, ⟨s.now, x.profile.settle⟩⟩ ∧ y.hops = x.hops ∧ y.lastPilot = x.pilot ∧
      y.ownRecord = none ∧ y.display = none ∧ y.unmeasuredRun = 0 ∧ y.noRoomRun = 0 ∧ y.cycleMeasuresStep = false ∧
      y.steps = x.steps ∧ y.lastDelta = x.lastDelta ∧
      y.ceiling = some (let half := max x.profile.minStep (x.lastDelta.getD 0 / 2)
        match x.ceiling with
        | none => half
        | some c => min c half)

/-- Job j, which was x, holds (R144): STEP_END(HOLD), its gate released, and one settle period before an ungated
re-measure. -/
structure State.Holds (s u : State) (j : Nat) (x : Job) (unmeasured noRoom : Nat) : Prop where
  job : ∃ y, u.job j = some y ∧ y.key = x.key ∧ y.phase = .waiting ∧ y.timer = some ⟨.wait, ⟨s.now, x.profile.settle⟩⟩ ∧
    y.att = x.att ∧ y.stack = x.stack ∧ y.stepNo = x.stepNo ∧ y.hops = x.hops ∧ y.unmeasuredRun = unmeasured ∧
    y.noRoomRun = noRoom
  gate : s.GateReleased u x
  frame : x.isPath = true → s.Hands u x.egress (x.frame (.stepEnd 1))

/-- Job j, which was x, commits (R44, R147): the commit write at its target with pilot 0, its cell IN_SERVICE with the
current reading, its participation and its gate freed, and a PATH job's COMMIT with its window. -/
structure State.Commits (s u : State) (j : Nat) (x : Job) : Prop where
  job : ∃ y, u.job j = some y ∧ y.key = x.key ∧ y.phase = .committing ∧ y.att = .hdb x.target ∧ y.entry = none ∧
    y.suspendPending = false ∧ y.unmeasuredRun = 0 ∧ y.noRoomRun = 0 ∧ y.hops = x.hops ∧
    y.timer = if x.isPath = true then some ⟨.committedWindow, ⟨s.now, 250 + 50 * x.path.length⟩⟩ else none
  writes : u.shelf.Writes .c (cellOffset x.egress x.slot) (mkCell x.source 0 (.hdb x.target)) (.commit x.key)
  grid : u.grid x.egress x.slot = ⟨.inService, none,
    if x.egress = 0 then none else (s.reading x.egress .outward x.slot).level, false, false⟩
  entry : ∀ p, x.entry = some p → u.entry p = none
  gate : s.GateReleased u x
  frame : x.isPath = true → s.Hands u x.egress ⟨x.key, 0, .commit⟩

/-- What a step write of job x makes of its per-hop array, in job y: an ignition changes nothing; a planned step gives
each hop the sensitivity that the plan was made with as its S_used (R127, R132). -/
structure Job.TakesUsed (x y : Job) : Prop where
  ignition : x.att = .block → y.hops = x.hops
  length : y.hops.length ≤ x.hops.length
  planned : ∀ (pl : Plan) (i n : Nat) (h : HopElem), x.att ≠ .block → x.plan = some pl → x.hops[i]? = some h →
    pl.sens[i]? = some n → y.hops[i]? = some { h with used := some n }

/-- Job j, which was x, takes the gate of its participation p, which was e and whose gate no other entry holds, and goes
on: an INTENT of a PATH job, after the frames sent before it; the write of a LOCAL job, of its plan, or of its ignition
where it stands at BLOCK, with what it makes of g, last Δ and S_used, and its first one's RAMPING and OPEN (R43, R79, R106,
R121, R127, R132, R141). -/
structure State.StepsOn (s u : State) (j : Nat) (x : Job) (p : Nat) (e : Participation) (before : List PathFrame) : Prop where
  gate : ∃ g, u.gate e.watched.1 e.watched.2 = some g ∧ g.holder = p ∧ g.key = e.key ∧ g.since = s.now ∧
    g.step = x.stepNo + 1 ∧ g.att = x.att
  path : x.isPath = true →
    s.HandsAll u x.egress (before ++
      [⟨x.key, BitVec.ofNat 8 (x.stepNo + 1), .intent (BitVec.ofNat 16 x.att.code) (BitVec.ofNat 16 x.target)⟩]) ∧
    ∃ y, u.job j = some y ∧ y.phase = .gating ∧ y.plan = x.plan ∧ y.stepNo = x.stepNo ∧ y.att = x.att ∧ y.hops = x.hops ∧
      y.timer = some ⟨.readyBusyWindow, ⟨s.now, 250 + 50 * x.path.length⟩⟩
  writes : ∀ a, x.isPath = false →
    (x.att = .block ∧ a = max x.profile.start x.target ∨ ∃ b pl, x.att = .hdb b ∧ x.plan = some pl ∧ a = b - pl.delta) →
    u.shelf.Writes .c (cellOffset x.egress x.slot) (mkCell x.source x.pilot (.hdb a)) (.step x.key) ∧
    ∃ y, u.job j = some y ∧ y.phase = .settling ∧ y.att = .hdb a ∧ y.stepNo = x.stepNo + 1 ∧ y.busyRun = 0 ∧ y.plan = none ∧
      y.stack = (x.att :: x.stack).take 8 ∧ y.timer = some ⟨.settle, ⟨s.now, x.profile.settle⟩⟩ ∧ y.lastPilot = x.pilot ∧
      y.cycleMeasuresStep = Decidable.decide (x.att ≠ .block) ∧
      y.steps = (if x.att = .block then x.steps else min 255 (x.steps + 1)) ∧
      y.lastDelta = (if x.att = .block then x.lastDelta else x.plan.map Plan.delta) ∧ x.TakesUsed y
  ramps : x.isPath = false → x.att = .block ∨ x.plan ≠ none → x.entry = some p →
    (u.entry p).map Participation.opened = some true ∧
    (x.egress ≤ 4 → x.slot < 96 → u.grid x.egress x.slot = if (s.grid x.egress x.slot).state = .reserved then
      { s.grid x.egress x.slot with state := .ramping } else s.grid x.egress x.slot)

/-- Job j, which was x, is turned away from its gate, which another entry holds: as a BUSY from hop 0 (R106, R110,
R121). -/
structure State.TurnedAway (s u : State) (j : Nat) (x : Job) : Prop where
  waits : x.busyRun < 39 → ∃ y, u.job j = some y ∧ y.phase = .waiting ∧ y.busyRun = x.busyRun + 1 ∧ y.att = x.att ∧
    y.hops = x.hops ∧ y.plan = x.plan ∧ y.stepNo = x.stepNo ∧ y.timer = some ⟨.retry, ⟨s.now, 150 + 50 * j⟩⟩
  ends : 39 ≤ x.busyRun → s.GracefullyAborts u j x .congested 0

/-- Job j, which was x, would begin a gated step (R106, R121, R141, R155): a pending suspend acts, a step number of 255
ends it, a gate that another entry holds turns it away, and otherwise it goes on. -/
structure State.BeginsStep (s u : State) (j : Nat) (x : Job) : Prop where
  suspends : x.suspendPending = true → ∃ y, u.job j = some y ∧ y.phase = .suspended ∧ y.suspendPending = false ∧
    y.timer = none ∧ y.plan = none ∧ y.att = x.att ∧ y.hops = x.hops
  ends : x.suspendPending = false → 255 ≤ x.stepNo → s.GracefullyAborts u j x .stepLimit 0
  turnedAway : ∀ p e g, x.suspendPending = false → x.stepNo < 255 → x.entry = some p → s.entry p = some e →
    s.gate e.watched.1 e.watched.2 = some g → g.holder ≠ p →
    u.gate e.watched.1 e.watched.2 = some g ∧ s.TurnedAway u j x
  steps : ∀ p e, x.suspendPending = false → x.stepNo < 255 → x.entry = some p → s.entry p = some e →
    1 ≤ e.watched.1 → e.watched.1 ≤ 4 → (∀ g, s.gate e.watched.1 e.watched.2 = some g → g.holder = p) →
    s.StepsOn u j x p e []

/-- Job j, which was x, goes on to its next step (R106, R121, R141, R144, R155): STEP_END(CONTINUE), its gate released,
then a pending suspend, the step limit, the BUSY of a gate that another entry holds, or the next step: an INTENT of a
PATH job, the write of a LOCAL job. The step limit and the fortieth BUSY end its cycle again, with STEP_END(RELEASE)
(log entry 19). -/
structure State.Continues (s u : State) (j : Nat) (x : Job) : Prop where
  suspends : x.suspendPending = true → s.GateReleased u x ∧
    (x.isPath = true → s.Hands u x.egress (x.frame (.stepEnd 0))) ∧
    ∃ y, u.job j = some y ∧ y.phase = .suspended ∧ y.suspendPending = false ∧ y.timer = none ∧ y.plan = none ∧
      y.att = x.att ∧ y.hops = x.hops
  ends : x.suspendPending = false → 255 ≤ x.stepNo → s.GateReleased u x ∧
    (∃ y, u.job j = some y ∧ y.phase = .unwinding ∧ y.cause = .stepLimit ∧ y.causeHop = 0 ∧ y.emergency = false ∧
      y.hops = x.hops) ∧
    (x.isPath = true → x.att ≠ .block → s.HandsAll u x.egress [x.frame (.stepEnd 0), x.frame (.stepEnd 2)])
  turnedAway : ∀ p e g, x.suspendPending = false → x.stepNo < 255 → x.entry = some p → s.entry p = some e →
    s.gate e.watched.1 e.watched.2 = some g → g.holder ≠ p → u.gate e.watched.1 e.watched.2 = some g ∧
    (x.busyRun < 39 → s.TurnedAway u j x ∧ (x.isPath = true → s.Hands u x.egress (x.frame (.stepEnd 0)))) ∧
    (39 ≤ x.busyRun →
      (∃ y, u.job j = some y ∧ y.phase = .unwinding ∧ y.cause = .congested ∧ y.causeHop = 0 ∧ y.emergency = false ∧
        y.hops = x.hops) ∧
      (x.isPath = true → x.att ≠ .block → s.HandsAll u x.egress [x.frame (.stepEnd 0), x.frame (.stepEnd 2)]))
  steps : ∀ p e, x.suspendPending = false → x.stepNo < 255 → x.entry = some p → s.entry p = some e →
    1 ≤ e.watched.1 → e.watched.1 ≤ 4 → (∀ g, s.gate e.watched.1 e.watched.2 = some g → g.holder = p) →
    s.StepsOn u j x p e [x.frame (.stepEnd 0)]
  runs : ∀ y, u.job j = some y → y.unmeasuredRun = 0 ∧ y.noRoomRun = 0

/-- The decision of job x on the records rs of a cycle is carried out (R133, R143 to R147): factors and figures learned,
a plan made, and the row of the table that applies. -/
structure State.CarriesOut (s u : State) (j : Nat) (x : Job) (rs : List HopRecord) : Prop where
  emergency : ∀ c h, (x.afterCycle rs).decision = .emergency c h → s.EmergencyAborts u j (x.afterCycle rs) c h .none
  backoff : ∀ h, (x.afterCycle rs).decision = .backoff h → s.BacksOff u j (x.afterCycle rs) h
  unmeasured : (x.afterCycle rs).decision = .holdUnmeasured →
    (x.unmeasuredRun < 2 → s.Holds u j (x.afterCycle rs) (x.unmeasuredRun + 1) x.noRoomRun) ∧
    (2 ≤ x.unmeasuredRun → s.GracefullyAborts u j (x.afterCycle rs) .monitor 0)
  noRoom : (x.afterCycle rs).decision = .holdNoRoom →
    (x.noRoomRun < 2 → s.Holds u j (x.afterCycle rs) x.unmeasuredRun (x.noRoomRun + 1)) ∧
    (2 ≤ x.noRoomRun → s.GracefullyAborts u j (x.afterCycle rs) .noRoom 0)
  commit : (x.afterCycle rs).decision = .commit → s.Commits u j (x.afterCycle rs)
  goesOn : (x.afterCycle rs).decision = .continue → s.Continues u j (x.afterCycle rs)

/-! ## The start of a LOCAL job (R64, R76, R126, R157) -/

/-- Between s and t a LOCAL job was made, record x with participation y, at line cell (e, slot), from a request of this
kind, source and target, a RAISE with the attenuation it starts from: the lowest free number and its generation, the
lowest free entry, the cell RESERVED for it; profile 0, pilot 0 and tag 0, the target clamped to the egress's floor, A at
BLOCK or at the start, and one hop, this node, with T at the depth from profile 0's start, or from the cell's
attenuation. In what phase x stands here is left open. Nothing else changed (R31, R43, R64, R70, R76, R77, R126, R139,
R157). -/
structure State.MakesLocal (s t : State) (kind : JobKind) (e slot source target : Nat) (start : Option Nat) (x : Job)
    (y : Participation) : Prop where
  entry : t.entry s.freeEntry = some y ∧ y =
    { key := ⟨s.cfg.node.nodeId, BitVec.ofNat 3 s.freeJob, s.cfg.nextGen.get s.freeJob⟩
      role := .localRole, slot := slot, ingress := 0, egress := e, hop := 0, path := [], pilot := 0
      target := max (s.degree e).floor target, start := (s.cfg.profiles.get 0).start
      visibility := (s.cfg.profiles.get 0).visibility, opened := false, closing := false, orphaned := false
      budget := (s.degree e).budget, limit := (s.degree e).limit, refs := s.referenceSet e .outward slot
      row := s.tableRow (s.referenceSet e .outward slot).length, routeAtt := none, orphanFrom := none
      measurement := none, cycle := none, ownRecord := none, heldReport := none, intents := [] }
  job : t.job s.freeJob = some x ∧ x =
    { key := y.key, tag := 0, kind := kind, phase := x.phase, closing := false, suspendPending := false
      lateAbort := false, profile := s.cfg.profiles.get 0, pilot := 0, egress := e, slot := slot, source := source
      att := match start with
        | none => .block
        | some a => .hdb a
      target := max (s.degree e).floor target, startAtt := start, intercepted := some (cellOffset e slot), path := []
      entry := some s.freeEntry, stepNo := 0, backoffs := 0, unmeasuredRun := 0, noRoomRun := 0, silentRun := 0
      busyRun := 0, ownRecord := none, display := none
      hops := [{
        hop := 0, node := s.cfg.node.nodeId, budget := y.budget, limit := y.limit, count := y.refs.length, dev := 0
        devResult := .ok, contResult := .notYet
        tnext := y.row.getD (depthClassOf (((start.getD (s.cfg.profiles.get 0).start : Nat) : Int) - x.target)) 0
        factor := 1000, used := none }]
      stack := [], steps := 0, lastDelta := none, ceiling := none, plan := none, limiting := 0
      cycleMeasuresStep := false, lastPilot := 0, emergency := false, cause := .none, causeHop := 0
      remoteCause := .none, gracefulCause := .none, timer := none, keepFrom := none }
  cell : t.grid e slot = ⟨.reserved, some s.freeEntry, none, false, false⟩
  number : t.cfg.nextGen = s.cfg.nextGen.set s.freeJob (s.cfg.nextGen.get s.freeJob + 1)
  otherJobs : ∀ i, i ≠ s.freeJob → t.job i = s.job i
  otherEntries : ∀ q, q ≠ s.freeEntry → t.entry q = s.entry q
  otherCells : ∀ c k, c ≤ 4 → k < 96 → (c, k) ≠ (e, slot) → t.grid c k = s.grid c k
  frame : t = { s with
    shelf := t.shelf, cg.entries := t.cg.entries, cfg.nextGen := t.cfg.nextGen, pa.entries := t.pa.entries
    jobs := t.jobs, marks := t.marks }
  produces : Shelf.OnlyProduces s.shelf t.shelf

/-- What a LOCAL job does first, at the event that made it as record x with participation y, entry p, of state t. A LIGHT
job begins its ignition step. A RAISE job with no distance to go takes its start as its target and aborts FLOOR, its
start to be restored after one settle period. Any other RAISE job plans from its array, and holds for one settle period,
its no-room run 1, where there is no room, or else begins the planned step. It leaves its entry OPEN exactly where it has
written, and nothing of other jobs, entries, cells and gates changes (R121, R126, R127, R128 to R131, R157). -/
structure State.LocalBegins (t u : State) (j p : Nat) (x : Job) (y : Participation) : Prop where
  ignites : x.startAtt = none → t.BeginsStep u j x
  floor : ∀ a, x.startAtt = some a → a ≤ x.target →
    t.GracefullyAborts u j { x with target := a } .floor 0 ∧
    u.job j = some { x with
      target := a, phase := .unwinding, cause := .floor, timer := some ⟨.unwind, ⟨t.now, x.profile.settle⟩⟩ } ∧
    u = { t with pa.entries := u.pa.entries, jobs := u.jobs, marks := u.marks }
  holds : ∀ a, x.startAtt = some a → x.target < a → x.makePlan.outcome = .noRoom →
    u.job j = some { x with
      plan := some x.makePlan, noRoomRun := 1, phase := .waiting, timer := some ⟨.wait, ⟨t.now, x.profile.settle⟩⟩ } ∧
    u = { t with jobs := u.jobs, marks := u.marks }
  steps : ∀ a, x.startAtt = some a → x.target < a → x.makePlan.outcome ≠ .noRoom →
    t.BeginsStep u j { x with plan := some x.makePlan }
  entry : ∃ z, u.job j = some z ∧ u.entry p = some { y with opened := Decidable.decide (z.phase = .settling) }
  otherJobs : ∀ i, i ≠ j → u.job i = t.job i
  otherEntries : ∀ q, q ≠ p → u.entry q = t.entry q
  otherCells : ∀ c k, c ≤ 4 → k < 96 → (c, k) ≠ (x.egress, x.slot) → u.grid c k = t.grid c k
  otherGates : ∀ d dir, 1 ≤ d → d ≤ 4 → (d, dir) ≠ (x.egress, .outward) → u.gate d dir = t.gate d dir
  frame : u = { t with
    shelf := u.shelf, cg.entries := u.cg.entries, pa.entries := u.pa.entries, gates := u.gates, jobs := u.jobs
    marks := u.marks }
  produces : Shelf.OnlyProduces t.shelf u.shelf

/-! ## Results of measurements (R38, R113 to R115, R121) -/

/-- The hop record that participation x makes of a result, at the head attenuation and the target of its cycle (R113). -/
def State.recordOf (s : State) (x : Participation) (a : Atten) (target : Nat) (dev : DevResult) (d : Nat) (cont : ContResult) :
    HopRecord :=
  { hop := BitVec.ofNat 8 x.hop
    node := s.cfg.node.nodeId
    results := BitVec.ofNat 8 (dev.code + 16 * cont.code)
    dev := BitVec.ofNat 16 d
    budget := BitVec.ofNat 16 x.budget
    limit := BitVec.ofNat 16 x.limit
    count := BitVec.ofNat 8 x.refs.length
    tnext := BitVec.ofNat 16 (x.row.getD (min 7 (depthClass a target + 1)) 0) }

/-- The result of measurement m reaches participation p, which was x: nothing is pending any more. A transit holds its
record, or, with a held REPORT, holds nothing more; a tail holds nothing; a head that awaits the display of its path
holds its record (R38, R113 to R115). -/
structure State.Delivers (s u : State) (p : Nat) (x : Participation) (m : Measurement) (dev : DevResult) (d : Nat)
    (cont : ContResult) : Prop where
  transit : ∀ c, x.role = .transit → x.cycle = some c →
    (x.heldReport = none → u.entry p = some { x with
      measurement := none, ownRecord := some (s.recordOf x c.att c.target dev d cont) }) ∧
    (x.heldReport ≠ none → u.entry p = some { x with measurement := none, ownRecord := none, heldReport := none })
  tail : ∀ c, x.role = .tail → x.cycle = some c → u.entry p = some { x with measurement := none }
  head : ∀ y, x.role.isTransitOrTail = false → s.job x.key.job.toNat = some y → y.isPath = true → y.display = none →
    u.entry p = some { x with measurement := none } ∧
    u.job x.key.job.toNat = some { y with ownRecord := some (s.recordOf x m.att y.target dev d cont) }

/-- What follows where no other result is delivered at the event: a tail's REPORT, a transit's with the REPORT it held,
each of which starts the hold limit of a held gate again, and the decision of a head that holds its display, or of a
LOCAL job (R104, R114, R115, R121). -/
structure State.ActsOnResult (s u : State) (p : Nat) (x : Participation) (m : Measurement) (dev : DevResult) (d : Nat)
    (cont : ContResult) : Prop where
  transit : ∀ c ds, x.role = .transit → x.cycle = some c → x.heldReport = some ds →
    s.Hands u x.ingress ⟨x.key, c.step, .report ((addRecord (s.recordOf x c.att c.target dev d cont) ds).take 16)⟩ ∧
    s.GateRestarted u p x
  tail : ∀ c, x.role = .tail → x.cycle = some c →
    s.Hands u x.ingress ⟨x.key, c.step, .report [s.recordOf x c.att c.target dev d cont]⟩ ∧ s.GateRestarted u p x
  decides : ∀ y, x.role.isTransitOrTail = false → s.job x.key.job.toNat = some y → y.entry = some p → y.phase = .measuring →
    y.closing = false → (y.isPath = false ∨ y.display ≠ none) →
    s.CarriesOut u x.key.job.toNat y (s.recordOf x m.att y.target dev d cont :: y.display.getD [])

/-! ## Judgement of a burst (R6) -/

/-- The beats bs of a granted burst are judged in beat order, as `after`: beat i meets the state st i, and leaves st (i
+ 1). A whole beat that the check read covers waits for it, and after a beat that waits so does a whole one that would
light a governed FREE line cell, with a node ID and a head slot free (R6, R8; log entry 9). -/
structure State.GrantsInOrder (s : State) (m : BitVec 4) (bs : List (Word × WriteBeat)) (after : List FwdBeat)
    (st : Nat → State) : Prop where
  starts : st 0 = s
  length : after.length = bs.length
  waits : ∀ i x, bs[i]? = some x → x.2.enables = 15 →
    ((st i).needsCheck x.1 = true ∨ ((∃ y ∈ after.take i, y.out = none) ∧ (st i).needsOrder x.1 x.2 = true)) →
    after[i]? = some ⟨x.1, x.2, none, (st i).needsCheck x.1, none, none⟩ ∧ st (i + 1) = st i
  judged : ∀ i x, bs[i]? = some x →
    ¬ (x.2.enables = 15 ∧
      ((st i).needsCheck x.1 = true ∨ ((∃ y ∈ after.take i, y.out = none) ∧ (st i).needsOrder x.1 x.2 = true))) →
    let v := (st i).judgeBeat m x.1 x.2 none
    after[i]? = some ⟨x.1, x.2, some v.out, (st i).needsCheck x.1, v.report, v.snoop⟩ ∧ st (i + 1) = v.state

/-- The beats that waited for the check read are judged in beat order with its words, `before` becoming `after`: beat i
meets the state st i, and leaves st (i + 1). A beat already judged stays as it is. The words go in order to the beats
that the check read covers; on ERROR there is none (R6, R9). The grid state that a beat is judged by is that of the
grant: IN_SERVICE where the check read covers it, else FREE. -/
structure State.ChecksInOrder (s : State) (m : BitVec 4) (before after : List FwdBeat) (words : Option (List Word))
    (st : Nat → State) : Prop where
  starts : st 0 = s
  length : after.length = before.length
  stays : ∀ i b, before[i]? = some b → b.out.isSome = true → after[i]? = some b ∧ st (i + 1) = st i
  judged : ∀ i b, before[i]? = some b → b.out = none →
    let covered := (before.take i).countP FwdBeat.checked
    let v := (st i).judgeWaiting m b (if b.checked = true then words.bind fun ws => ws[covered]? else none)
    after[i]? = some { b with out := some v.out, report := v.report, snoop := v.snoop } ∧ st (i + 1) = v.state

/-- The monitor table and the sweep headers, whose words BI copies to MSU (R13). -/
def Region.isMonitored : Region → Bool
  | .monitor _ _ _ => true
  | .sweepHeader _ => true
  | .cell _ _ => false
  | .producerWord => false
  | .consumerWord => false
  | .ordinary => false
  | .outside => false

/-! ## The arbiter (R19, R20) -/

/-- A part request of class (c) or (d) waits. -/
def BusInterposer.PartWaits (b : BusInterposer) : Prop := ∃ r ∈ b.parts, r.cls ≠ .a

/-- The word at offset o is one of transaction t's, and a part write to it is pending (R16). -/
def BusInterposer.Blocks (b : BusInterposer) (t : UpTxn) (o : Nat) : Prop :=
  (∃ a ∈ beatAddrs t, windowOffset b.winsel a = some o) ∧ ∃ r ∈ b.parts, r.data.isSome = true ∧ r.offset = o

/-- A forwarded transaction completes, and the next are let in: of the masters that wait, the oldest first, as many are
accepted as BI has room for, which then holds 4 at most; and the head of class (b) waits for the part writes pending to
its words, those of before the event and those that the event made before its status updates (R1, R16; log entry 12). -/
structure State.AdmitsNext (s u : State) : Prop where
  accepted : u.shelf.bus.accepted =
    s.shelf.bus.accepted ++ s.shelf.bus.offers.take (4 - s.shelf.bus.accepted.length)
  offers : u.shelf.bus.offers = s.shelf.bus.offers.drop (4 - s.shelf.bus.accepted.length)
  empty : u.shelf.bus.accepted = [] → u.shelf.bus.headWaits = []
  waits : ∀ t o, u.shelf.bus.accepted.head? = some t → o ∈ u.shelf.bus.headWaits → u.shelf.bus.Blocks t o
  before : ∀ t o, u.shelf.bus.accepted.head? = some t → s.shelf.bus.Blocks t o → o ∈ u.shelf.bus.headWaits
  made : ∀ t r, u.shelf.bus.accepted.head? = some t → r ∈ u.shelf.bus.parts → r.data.isSome = true → r.purpose ≠ .status →
    u.shelf.bus.Blocks t r.offset → r.offset ∈ u.shelf.bus.headWaits

/-- The port is free and class (b)'s head is to be granted: it does not wait, no class (a) request is pending, and the
count of R20 does not give a waiting part request its turn (R19, R20). -/
structure BusInterposer.HeadHasTurn (b : BusInterposer) (t : UpTxn) : Prop where
  free : b.port = .idle
  head : b.accepted.head? = some t
  eligible : b.headWaits = []
  noProtective : ∀ r ∈ b.parts, r.cls ≠ .a
  turn : b.bGrants < 4 ∨ ¬ b.PartWaits


end Sys2Proof.Machine

namespace Sys2Proof

/-- The commands that are path frames: the link one arrives on, and the frame (R80). -/
def Instr.frame : Instr → Option (Nat × PathFrame)
  | .claim d k n b => some (d, ⟨k, n, .claim b⟩)
  | .confirm d k n x => some (d, ⟨k, n, .confirm x⟩)
  | .refuse d k n c h => some (d, ⟨k, n, .refuse c h⟩)
  | .intent d k n a t => some (d, ⟨k, n, .intent a t⟩)
  | .ready d k n => some (d, ⟨k, n, .ready⟩)
  | .busy d k n h => some (d, ⟨k, n, .busy h⟩)
  | .measure d k n a t => some (d, ⟨k, n, .measure a t⟩)
  | .report d k n x => some (d, ⟨k, n, .report x⟩)
  | .stepEnd d k n x => some (d, ⟨k, n, .stepEnd x⟩)
  | .commit d k n => some (d, ⟨k, n, .commit⟩)
  | .committed d k n => some (d, ⟨k, n, .committed⟩)
  | .abortFrame d k n c => some (d, ⟨k, n, .abort c⟩)
  | .alarm d k n c h => some (d, ⟨k, n, .alarm c h⟩)
  | .keep d k n => some (d, ⟨k, n, .keep⟩)
  | _ => none

/-- A path count lies in 2..16 and a display count in 0..16 (R164). -/
def Frame.CountsInRange : Frame → Prop
  | .path ⟨_, _, .claim c⟩ => 2 ≤ c.path.length ∧ c.path.length ≤ 16 ∧ c.display.length ≤ 16
  | .path ⟨_, _, .confirm d⟩ => d.length ≤ 16
  | .path ⟨_, _, .report d⟩ => d.length ≤ 16
  | _ => True

end Sys2Proof
end

