-- ==== Sys2Proof/Certificates/Slice0/Obligations.lean ====
section
/-! DEFINITION. The statements for the provers. -/

section
open Sys2Proof Sys2Proof.Machine

/-! ## The machine -/

/-- With a command at the front of the queue, a step is that command's exec on the state with the queue's rest. -/
def Obligations.StepRunsTheFrontCommand : Prop :=
  ∀ (s : State) (c : Instr) (rest : List Instr),
    s.pending = c :: rest → step s = exec c { s with pending := rest }

/-- The model's choice (log entry 4): with no command waiting, a step outside reset advances the clock by 1 µs, from 999
to the next count of the 1 ms time base (00_scope.md section 5), and changes nothing else but the queue; in reset time
stands still. What then waits is the command of each timer that has run out, and no other: of a read hold 50 µs after
its opening, at any microsecond (R17); of every other timer, window, deadline and expiry at a count of the time base. No
command changes the queue, and none but RESET_END the clock. -/
def Obligations.OnlyIdleStepsAdvanceTheClock : Prop :=
  (∀ s : State, s.pending = [] →
    (s.mode = .inReset → step s = .next s) ∧
    (s.mode ≠ .inReset → ∃ t, step s = .next t ∧ t = { s with clock := t.clock, pending := t.pending } ∧
      t.clock = (if s.clock.us < 999 then ⟨s.clock.ms, s.clock.us + 1⟩ else ⟨s.clock.ms + 1, 0⟩) ∧
      ∀ c, c ∈ t.pending ↔
        (∃ r o, c = .readHoldExpiry r ∧ r < 10 ∧ (s.shelf.bus.holds.get r).opened = some o ∧ 50 ≤ t.clock.microsSince o) ∨
        (t.clock.us = 0 ∧ t.Due c))) ∧
  (∀ (c : Instr) (s t : State), exec c s = .next t →
    t.pending = s.pending ∧ ((∀ straps, c ≠ .resetEnd straps) → t.clock = s.clock))

/-! ## Invariants of every step -/

/-- Section 6.1 (R102): each of a node's eight step gates is held by at most one participation entry, and a held gate's
holder is a live entry of that node whose watched direction is that gate's. -/
def Obligations.GateHoldersStayLiveWatchers : Prop :=
  ∀ s t : State, s.GatesHeldByWatchers → step s = .next t → t.GatesHeldByWatchers

/-- Section 8.2 (R141): a job's rollback stack holds between 0 and 8 values, its step number never exceeds 255, and its
backoff count never exceeds 3; the runs and factors stay in the ranges of sections 7.1, 7.3 and 8.1. -/
def Obligations.JobCountsStayBounded : Prop :=
  ∀ s t : State, s.JobsBounded → step s = .next t → t.JobsBounded

/-- Section 7.3 (R131): the attenuation of a job is never below its clamped target, BLOCK counting as above every number;
every value of its rollback stack is at or above it too (section 8.4), and its timer runs in the phase of section 8.1. -/
def Obligations.JobsNeverPassTheirTarget : Prop :=
  ∀ s t : State, s.cfg.InRange → s.JobsAboveTarget → step s = .next t → t.JobsAboveTarget

/-- Section 3.1 (R40, R41): an entry has an owner exactly in RESERVED and RAMPING, and a commit level and flags only in
IN_SERVICE. -/
def Obligations.GridEntriesKeepTheirShape : Prop :=
  ∀ s t : State, s.GridShaped → step s = .next t → t.GridShaped

/-- Section 1.7 (R16, R17): for each word, BI holds at most one pending part write, and an open hold at most one deferred
value, in ascending order. -/
def Obligations.PendingWritesStayOnePerWord : Prop :=
  ∀ s t : State, s.shelf.bus.WritesOrdered → step s = .next t → t.shelf.bus.WritesOrdered

/-- Sections 1.1, 1.9 and 10.1 (R1, R20, R172): at most 4 transactions are accepted and not complete, the arbiter's
count is 0..4, the ring's indices lie in the ring, the drop count saturates and the publication queue holds at most 64.
Section 1.6 (R13): a write at the port that has earned a copy of a monitor word or of a sweep header is the scanner's,
and has no foreign beat. -/
def Obligations.BusAndReportRingStayBounded : Prop :=
  (∀ s t : State, s.shelf.Bounded → step s = .next t → t.shelf.Bounded) ∧
  (∀ s t : State, s.shelf.bus.CopiesAreTheScanners → step s = .next t → t.shelf.bus.CopiesAreTheScanners)

/-- Sections 4.5, 4.6 and 4.8 (R67, R69, R71): profiles, table and node settings stay in their ranges. Sections 2.1, 4.1
and 9.1 (R25, R57, R162): snapshot entries and link records keep the shapes of their fields, the order ring's indices stay
in the ring, and between events nothing is marked for a status update (the model's own field `marks`, log entry 5). -/
def Obligations.ConfigurationAndRecordsKeepTheirShape : Prop :=
  (∀ s t : State, s.cfg.InRange → step s = .next t → t.cfg.InRange) ∧
  (∀ s t : State, s.LinksShaped ∧ s.SnapshotShaped ∧ s.ord.InRing ∧ s.Between → step s = .next t →
    t.LinksShaped ∧ t.SnapshotShaped ∧ t.ord.InRing ∧ t.Between)

/-- Sections 3.1, 5.1 and 8.1 (R41, R76, R77, R139): a job that has a participation finds it live, in HEAD or LOCAL role,
under its own key, with its egress and slot. Every RESERVED or RAMPING grid entry is owned by exactly one live
participation with that egress and slot, and every live participation owns one. Each HEAD or LOCAL participation is that
of the live job that its key names, so that no two are of one job number and at most 8 are live. A job that neither
commits nor closes has a participation, and an intake runs only in RUNNING. Section 1.4 (R6): the cells of the beats that
wait for a check read stay in the grid state that they had at the grant. While fewer than 8 jobs and 32 participations
live, the lowest free number and the lowest free entry are there to be taken. -/
def Obligations.OwnersAndJobsKeepTheirEntries : Prop :=
  (∀ s t : State, s.JobsHaveEntries → step s = .next t → t.JobsHaveEntries) ∧
  (∀ s t : State, s.OwnersMatch → step s = .next t → t.OwnersMatch) ∧
  (∀ s t : State, s.OwnersMatch → s.WorkHasItsPlace → step s = .next t → t.WorkHasItsPlace) ∧
  (∀ s : State, s.OwnersMatch →
    (∀ p q x y, s.entry p = some x → s.entry q = some y → x.egress = y.egress → x.slot = y.slot → p = q) ∧
    (∀ p q x y, s.entry p = some x → s.entry q = some y → x.role.isTransitOrTail = false →
      y.role.isTransitOrTail = false → x.key.job = y.key.job → p = q)) ∧
  (∀ s : State, s.liveJobs ≤ 8 ∧ s.liveEntries ≤ 32 ∧
    (s.liveJobs < 8 → s.freeJob < 8 ∧ s.job s.freeJob = none ∧ ∀ i, i < s.freeJob → s.job i ≠ none) ∧
    (s.liveEntries < 32 → s.freeEntry < 32 ∧ s.entry s.freeEntry = none ∧ ∀ p, p < s.freeEntry → s.entry p ≠ none))

/-- The state right after a power-on reset meets every invariant. -/
def Obligations.ResetMeetsEveryInvariant : Prop :=
  State.reset.GatesHeldByWatchers ∧ State.reset.JobsBounded ∧ State.reset.JobsAboveTarget ∧ State.reset.GridShaped ∧
    State.reset.shelf.bus.WritesOrdered ∧ State.reset.shelf.Bounded ∧ State.reset.shelf.bus.CopiesAreTheScanners ∧
    State.reset.cfg.InRange ∧
    State.reset.JobsHaveEntries ∧ State.reset.LinksShaped ∧ State.reset.SnapshotShaped ∧ State.reset.ord.InRing ∧
    State.reset.Between ∧ State.reset.OwnersMatch ∧ State.reset.WorkHasItsPlace

/-! ## Frames as bytes -/

/-- A frame as a link sends it is the frame that the receiving link reads, whatever its fields hold (sections 9.2,
12.3). The bits of the key byte and of a record's results byte that are in no field are as the model chose: 0 and
ignored in the key, kept as received in a record (log entry 28). -/
def Obligations.FramesReadAsTheyWereSent : Prop :=
  ∀ f : Frame, f.CountsInRange → decodeFrame (encodeFrame f) = some f

/-- A frame with one byte corrupted on the fibre fails a check (section 9.2): it is no frame at all. -/
def Obligations.CorruptedByteIsNoFrame : Prop :=
  ∀ (f : Frame) (i : Nat) (e : Byte), f.CountsInRange → i < (encodeFrame f).length → e ≠ 0 →
    decodeFrame ((encodeFrame f).modify i fun b => b ^^^ e) = none

/-! ## The bus -/

/-- Sections 1.1, 1.7 and 1.12 (R1, R17, R23): a transaction is accepted while BI holds fewer than 4 and no reset is in
progress, and waits at the port otherwise; nothing else changes but which words the head of class (b) waits for. A granted
read takes the port, and opens the hold, at the grant, of every record whose first word it includes and whose hold is
closed; every other hold, and everything else, is as it was. -/
def Obligations.TransactionsAreAcceptedAndReadsGranted : Prop :=
  (∀ (t : UpTxn) (s : State), s.Between → t.burst.wellFormed = true →
    ∃ u, exec (.upstreamTransaction t) s = .next u ∧
      u = { s with shelf.bus := { s.shelf.bus with
        offers := u.shelf.bus.offers, accepted := u.shelf.bus.accepted, headWaits := u.shelf.bus.headWaits } } ∧
      (s.mode = .inReset ∨ 4 ≤ s.shelf.bus.held →
        u.shelf.bus.offers = s.shelf.bus.offers ++ [t] ∧ u.shelf.bus.accepted = s.shelf.bus.accepted) ∧
      (s.mode ≠ .inReset → s.shelf.bus.held < 4 →
        u.shelf.bus.offers = s.shelf.bus.offers ∧ u.shelf.bus.accepted = s.shelf.bus.accepted ++ [t])) ∧
  (∀ (s : State) (t : UpTxn) (n : Nat), s.Between → s.shelf.bus.HeadHasTurn t → t.burst = .read n →
    ∃ u, exec .forwardedReadGrant s = .next u ∧
      u = { s with shelf.bus := { s.shelf.bus with
        accepted := s.shelf.bus.accepted.tail, headWaits := [], port := .read t, bGrants := u.shelf.bus.bGrants,
        holds := u.shelf.bus.holds } } ∧
      ∀ r, r < 10 →
        ((s.shelf.bus.holds.get r).opened = none →
          (∃ a ∈ beatAddrs t, windowOffset s.shelf.bus.winsel a = some (holdBase r)) →
          u.shelf.bus.holds.get r = ⟨some s.clock, []⟩) ∧
        (((s.shelf.bus.holds.get r).opened.isSome = true ∨
            ∀ a ∈ beatAddrs t, windowOffset s.shelf.bus.winsel a ≠ some (holdBase r)) →
          u.shelf.bus.holds.get r = s.shelf.bus.holds.get r))

/-- Sections 1.3, 1.4 and 1.6 (R4, R6, R15): a granted write takes the port with its beats in order, and passes to its
check read where a beat needs one, else to its writes with every beat judged and its report submitted. The beats are
judged in beat order, each against what those before it left; a whole beat that the check read covers waits, and after
it one that would light a governed FREE line cell, with a node ID and a head slot free (the model's choice, log entry
9). A burst that touches no region the device watches is forwarded unchanged, with no report and nothing else changed. A
write of one beat is judged by its region's row: at the grant, unless it is a whole beat that the check read covers,
which then waits. -/
def Obligations.GrantedWriteIsJudgedBeatByBeat : Prop :=
  ∀ (s : State) (t : UpTxn) (bs : List WriteBeat), s.Between → s.shelf.bus.HeadHasTurn t → t.burst = .write bs →
    (∃ u f, exec .forwardedWriteGrant s = .next u ∧ f.txn = t ∧ f.beats.map FwdBeat.addr = beatAddrs t ∧
      f.beats.map FwdBeat.written = bs ∧ u.shelf.bus.accepted = s.shelf.bus.accepted.tail ∧
      ((u.shelf.bus.port = .checkRead f ∧ ∃ b ∈ f.beats, b.checked = true) ∨
        (u.shelf.bus.port = .write f ∧ ∀ b ∈ f.beats, b.checked = false ∧ b.out.isSome = true ∧
          ∀ ev, b.report = some ev → Shelf.Submitted s.shelf u.shelf ev))) ∧
    (∃ u f st, exec .forwardedWriteGrant s = .next u ∧
      (u.shelf.bus.port = .checkRead f ∨ u.shelf.bus.port = .write f) ∧
      { s with shelf.bus := s.shelf.bus.grantForwarded .idle }.GrantsInOrder t.master (List.zip (beatAddrs t) bs) f.beats st ∧
      u = { st bs.length with shelf := u.shelf, marks := Marks.none }) ∧
    ((∀ a ∈ beatAddrs t, regionOf s.shelf.bus.winsel a = .ordinary ∨ regionOf s.shelf.bus.winsel a = .outside) →
      ∃ u, exec .forwardedWriteGrant s = .next u ∧
        u = { s with shelf.bus := { s.shelf.bus with
          accepted := s.shelf.bus.accepted.tail, headWaits := [], bGrants := u.shelf.bus.bGrants,
          port := .write ⟨t, (List.zip (beatAddrs t) bs).map (fun x => ⟨x.1, x.2, some x.2, false, none, none⟩), []⟩ } }) ∧
    (∀ b, bs = [b] →
      let a := t.addr &&& 0xFFFFFFFC
      let g : State := { s with shelf.bus := s.shelf.bus.grantForwarded .idle }
      let v := g.judgeBeat t.master a b none
      let waits := s.needsCheck a = true ∧ b.enables = 15
      ∃ u f, exec .forwardedWriteGrant s = .next u ∧ f.txn = t ∧
        u.shelf.bus.port = (if s.needsCheck a = true then .checkRead f else .write f) ∧
        (waits → f.beats = [⟨a, b, none, true, none, none⟩] ∧ u = { s with shelf := u.shelf }) ∧
        (¬ waits → f.beats = [⟨a, b, some v.out, s.needsCheck a, v.report, v.snoop⟩] ∧
          u = { v.state with shelf := u.shelf, marks := Marks.none } ∧
          ∀ ev, v.report = some ev → s.needsCheck a = false → Shelf.Submitted s.shelf u.shelf ev))

/-- Section 1.4 (R5, R7): whatever a master writes, a beat to a governed cell whose grid entry is RESERVED, RAMPING or
QUARANTINED at the grant is dropped: it is forwarded with its byte enables off, and reported with the master and the
value. While the device adopts, or the cell's degree is in intake, the report is INTERCEPT(NOT_READY); a partial beat's is
MALFORMED_WRITE; otherwise it is INTERCEPT(OWNED), with the owner's job key, and none where there is no owner. -/
def Obligations.OwnedCellsAreShielded : Prop :=
  ∀ (s u : State) (f : FwdWrite), exec .forwardedWriteGrant s = .next u →
    (u.shelf.bus.port = .write f ∨ u.shelf.bus.port = .checkRead f) →
    ∀ b ∈ f.beats, ∀ e slot, regionOf s.shelf.bus.winsel b.addr = .cell e slot → s.governed e = true →
      ((s.grid e slot).state = .reserved ∨ (s.grid e slot).state = .ramping ∨ (s.grid e slot).state = .quarantined) →
      b.out = some ⟨b.written.data, 0⟩ ∧
        ∃ ev, b.report = some ev ∧ ev.egress = some e ∧ ev.slot = some slot ∧
          ev.value1.toNat % 16 = f.txn.master.toNat ∧ ev.value2 = b.written.data ∧
          (s.mode = .adopting ∨ s.inIntake e = true → ev.kind = .intercept ∧ ev.cause = 20 ∧ ev.key = none) ∧
          (s.mode ≠ .adopting → s.inIntake e = false →
            (b.written.enables ≠ 15 → ev.kind = .malformedWrite ∧ ev.cause = 0 ∧ ev.key = none) ∧
            (b.written.enables = 15 → ev.kind = .intercept ∧ ev.cause = 42 ∧
              (∀ p x, (s.grid e slot).owner = some p → s.entry p = some x → ev.key = some x.key) ∧
              ((s.grid e slot).owner = none → ev.key = none)))

/-- Section 1.4 (R6): when the check read is answered, every beat is judged and the transaction passes to its writes. The
beats that waited are judged in beat order, each against what those before it left, the covered ones with their words, and
their reports are submitted; a beat that alone waited is judged with its word. The grid state that each is judged by is
that of the grant: IN_SERVICE where the check read covers it, else FREE; and as that stands at the answer, in every run
(`State.WaitingBeatsStand`), the judgement is that of any beat. What else R8 and R9 ask for, a head slot, and the commit
level of a CHANNEL_REMOVED are those of the answer: the model's choice (log entry 9). On ERROR every waiting beat that
the check read covers is dropped, INTERCEPT(READ_ERROR), and its grid entry is as it was. -/
def Obligations.CheckReadAnswerJudgesTheRest : Prop :=
  (∀ (s : State) (f : FwdWrite) (a : Option (List Word)), s.shelf.bus.port = .checkRead f →
    (∀ ws, a = some ws → ws.length = f.checkWords ∧ ws.length ≤ 16) →
    ∃ u g, exec (.checkReadAnswer a) s = .next u ∧ u.shelf.bus.port = .write g ∧ g.txn = f.txn ∧
      g.foreignBeats = f.foreignBeats ∧ g.beats.map FwdBeat.addr = f.beats.map FwdBeat.addr ∧
      g.beats.map FwdBeat.written = f.beats.map FwdBeat.written ∧ (∀ b ∈ g.beats, b.out.isSome = true) ∧
      (∀ b ∈ f.beats, b.out.isSome = true → b ∈ g.beats) ∧ u.shelf.bus.accepted = s.shelf.bus.accepted ∧
      u.shelf.bus.answers = s.shelf.bus.answers ∧
      (∃ st, s.ChecksInOrder f.txn.master f.beats g.beats a st ∧
        u = { st f.beats.length with shelf := u.shelf, marks := Marks.none } ∧
        ∀ b ∈ g.beats, ∀ ev, b.report = some ev → Shelf.Submitted s.shelf u.shelf ev) ∧
      (∀ b, f.beats = [b] → b.out = none →
        let v := s.judgeWaiting f.txn.master b (if b.checked = true then a.bind List.head? else none)
        g.beats = [{ b with out := some v.out, report := v.report, snoop := v.snoop }] ∧
          u = { v.state with shelf := u.shelf, marks := Marks.none }) ∧
      (a = none → s.WaitingBeatsStand → ∀ b ∈ f.beats, b.out = none → b.checked = true → ∀ e slot,
        regionOf s.shelf.bus.winsel b.addr = .cell e slot →
        u.grid e slot = s.grid e slot ∧ ∃ c ∈ g.beats, c.addr = b.addr ∧ c.out = some ⟨b.written.data, 0⟩ ∧
          c.report.map (fun ev => (ev.kind, ev.cause, ev.egress, ev.slot, ev.value2)) =
            some (.intercept, 35, some e, some slot, b.written.data))) ∧
  (∀ (s : State) (m : BitVec 4) (b : FwdBeat) (w : Option Word) (e slot : Nat), s.mode = .running →
    regionOf s.shelf.bus.winsel b.addr = .cell e slot → 1 ≤ e → s.isEquipped e = true → s.inIntake e = false →
    b.written.enables = 15 → (s.grid e slot).state = (if b.checked = true then .inService else .free) →
    s.judgeWaiting m b w = s.judgeBeat m b.addr b.written w)

/-- Sections 1.4 and 1.5 (R5, R8 to R10): how a beat to a governed cell is judged. While the device adopts, or the
cell's degree is in intake, it is dropped, INTERCEPT(NOT_READY); a partial beat is dropped, MALFORMED_WRITE. A whole
beat is rewritten: pilot 0, the attenuation clamped. At a FREE line cell an unlit word is forwarded; a lit one is turned
away NO_ENTRY without a node ID or a free head slot, and else becomes a LIGHT job and is dropped without report. At an
IN_SERVICE line cell, against the current word: unlit removes the channel; a new source is turned away REROUTE; an
attenuation lowered by at most the free step of 30 is forwarded; else NO_ENTRY in the same way, or a RAISE job. An L
cell's lit word is forwarded, and takes a FREE one into service; its unlit word is forwarded, and removes the channel of
one in service. A LIGHT or RAISE job (R121, R126, R127, R130, R157) is made with its record, its one hop, its
participation and its RESERVED cell, and JOB_STARTED is reported; then it begins: a LIGHT job takes its gate and writes
its ignition, or waits its retry delay where another entry holds the gate; a RAISE job aborts FLOOR where its clamped
target leaves nothing to raise, and else makes its first plan and steps in the same way, or holds, one NO_ROOM counted.
The model's choices: the entry's state alone decides, after the last write of a LOCAL job that still lives too (log
entry 28); JOB_STARTED shows CLAMPED for a clamped beat too, 1 hop, and the clamped target of a job that then aborts
FLOOR (log entry 13). -/
def Obligations.CellWritesAreJudged : Prop :=
  ∀ (s : State) (e slot : Nat) (m : BitVec 4) (b : WriteBeat), e ≤ 4 → slot < 96 →
    let w := rewriteCell b.data
    let written := b.data.toNat % 4096
    let new := bitsOf w 0 12
    let j := s.freeJob
    let p := s.freeEntry
    let turnedAway (v : Verdict) (kind : EventKind) (cause : Nat) : Prop := v.out = ⟨b.data, 0⟩ ∧ v.state = s ∧
      v.report.map (fun ev => (ev.kind, ev.cause, ev.egress, ev.slot, ev.value1.toNat % 16, ev.value2)) =
        some (kind, cause, some e, some slot, m.toNat, b.data)
    let forwarded (v : Verdict) : Prop := v.out = ⟨w, 15⟩ ∧ v.report = none ∧ v.snoop = none
    let removed (v : Verdict) : Prop := v.out = ⟨w, 15⟩ ∧ v.state = s.setGrid e slot GridEntry.freeEntry ∧
      v.report.map (fun ev => (ev.kind, ev.egress, ev.slot)) = some (.channelRemoved, some e, some slot)
    let starts (v : Verdict) (kind : JobKind) (source target : Nat) (start : Option Nat) : Prop :=
      let clamped := max (s.degree e).floor target
      v.out = ⟨b.data, 0⟩ ∧ v.report = none ∧ v.snoop = none ∧
      (∃ t x y, s.MakesLocal t kind e slot source target start x y ∧ t.LocalBegins v.state j p x y) ∧
      (∃ x, v.state.job j = some x ∧ x.kind = kind ∧ x.egress = e ∧ x.slot = slot ∧ x.startAtt = start ∧ x.source = source ∧
        x.key = s.newKey ∧ x.entry = some p ∧ x.target = match start with
          | none => clamped
          | some a => min a clamped) ∧
      Shelf.Submitted s.shelf v.state.shelf
        { kind := .jobStarted, time := s.now, key := some s.newKey, egress := some e, slot := some slot
          cause := if (2500 < written ∧ written < 4095) ∨ target < (s.degree e).floor then 46 else 0
          tag := 0, value1 := packWord [⟨clamped, 0, 12⟩]
          value2 := packWord [⟨1, 0, 5⟩, ⟨kind.code, 8, 2⟩, ⟨cellOffset e slot, 16, 16⟩] } ∧
      ((v.state.grid e slot).state = .reserved ∨ (v.state.grid e slot).state = .ramping) ∧
      (v.state.grid e slot).owner = some p
    (∀ now, s.mode = .adopting ∨ s.inIntake e = true → turnedAway (s.judgeCell e slot m b now) .intercept 20) ∧
    (∀ now, s.mode ≠ .adopting → s.inIntake e = false → b.enables ≠ 15 →
      turnedAway (s.judgeCell e slot m b now) .malformedWrite 0) ∧
    (bitsOf w 16 12 = 0 ∧ new = (if 2500 < written ∧ written < 4095 then 2500 else written) ∧
      bitsOf w 12 4 = bitsOf b.data 12 4 ∧ bitsOf w 28 4 = bitsOf b.data 28 4) ∧
    (s.mode ≠ .adopting → s.inIntake e = false → b.enables = 15 →
      (∀ now, (s.grid e slot).state = .free →
        let v := s.judgeCell e slot m b now
        (cellLit w = false → forwarded v ∧ v.state = s) ∧
        (e = 0 → cellLit w = true → forwarded v ∧ v.state = s.setGrid 0 slot ⟨.inService, none, none, false, false⟩) ∧
        (e ≠ 0 → cellLit w = true →
          (s.cfg.node.nodeId = 0 ∨ s.headSlotFree = false → turnedAway v .intercept 24) ∧
          (s.cfg.node.nodeId ≠ 0 → s.headSlotFree = true → starts v .light (cellSource w) new none))) ∧
      (∀ now, (s.grid e slot).state = .inService → e = 0 →
        let v := s.judgeCell e slot m b now
        (cellLit w = false → removed v) ∧ (cellLit w = true → forwarded v ∧ v.state = s)) ∧
      (∀ now, (s.grid e slot).state = .inService → e ≠ 0 →
        let v := s.judgeCell e slot m b (some now)
        let old : Nat × Nat := if cellLit now = true then (cellSource now, bitsOf now 0 12) else (cellSource w, 2500)
        (cellLit w = false → removed v) ∧
        (cellLit w = true → cellSource w ≠ old.1 → turnedAway v .intercept 43) ∧
        (cellLit w = true → cellSource w = old.1 → old.2 ≤ new + 30 → forwarded v ∧ v.state = s) ∧
        (cellLit w = true → cellSource w = old.1 → new + 30 < old.2 →
          (s.cfg.node.nodeId = 0 ∨ s.headSlotFree = false → turnedAway v .intercept 24) ∧
          (s.cfg.node.nodeId ≠ 0 → s.headSlotFree = true → starts v .raise old.1 new (some old.2)))))

/-- Sections 1.1, 1.6, 1.7 and 1.11 (R1, R13, R14, R17, R18, R21): a completed transaction is answered upstream with
what memory answered, and frees the port. On OK the snoops of a write are taken in beat order; on ERROR none is, and
nothing but the shelf side changes. A read closes the hold of every record whose last word it includes, of one at most
in a burst of 16, and the deferred values of that record become pending class (d) writes at the back, in ascending word
order; where it closes none, what is pending stays. Then waiting masters are accepted, oldest first, as far as there is
room, and the next head of class (b) waits for the part writes pending to its words (R16): the moment at which it
reaches the head is the model's choice (log entry 12). The answer to a write that a reset cut off frees the port and
does nothing else (R23 of section 1.12; log entry 27). -/
def Obligations.CompletionAnswersUpstream : Prop :=
  (∀ (s : State) (f : FwdWrite) (ok : Bool), s.shelf.bus.port = .write f →
    ∃ u, exec (.forwardedTransactionComplete ok []) s = .next u ∧ u.shelf.bus.port = .idle ∧
      u.shelf.bus.answers = s.shelf.bus.answers ++ [⟨f.txn, if ok = true then some [] else none⟩] ∧ s.AdmitsNext u ∧
      (ok = false → u = { s with shelf := u.shelf, marks := Marks.none }) ∧
      (ok = true →
        let t : State := { s with shelf.bus := { s.shelf.bus with
          port := .idle, answers := s.shelf.bus.answers ++ [⟨f.txn, some []⟩] } }
        let v := (f.beats.filterMap FwdBeat.snoop).foldl State.takeSnoop t
        u = { v with shelf := u.shelf, marks := Marks.none } ∧ u.shelf.rw.consumer = v.shelf.rw.consumer)) ∧
  (∀ (s : State) (t : UpTxn) (ok : Bool) (data : List Word), s.shelf.bus.port = .read t →
    data.length = (if ok = true then t.burst.length else 0) → data.length ≤ 16 →
    ∃ u, exec (.forwardedTransactionComplete ok data) s = .next u ∧ u.shelf.bus.port = .idle ∧
      u.shelf.bus.answers = s.shelf.bus.answers ++ [⟨t, if ok = true then some data else none⟩] ∧
      u = { s with shelf := u.shelf, marks := Marks.none } ∧ s.AdmitsNext u ∧
      (s.Between → ∀ x o, u.shelf.bus.accepted.head? = some x → u.shelf.bus.Blocks x o → o ∈ u.shelf.bus.headWaits) ∧
      let closes (r : Nat) : Prop := ∃ a ∈ beatAddrs t, windowOffset s.shelf.bus.winsel a = some (holdLast r)
      (∀ r, r < 10 → (closes r → u.shelf.bus.holds.get r = ⟨none, []⟩) ∧
        (¬ closes r → (u.shelf.bus.holds.get r).opened = (s.shelf.bus.holds.get r).opened)) ∧
      (s.Between → s.shelf.bus.WritesOrdered → t.burst.length ≤ 16 →
        (∀ r, r < 10 → closes r →
          let ds := (s.shelf.bus.holds.get r).deferred
          ds.Pairwise (fun x y => x.1 < y.1) ∧ u.shelf.bus.parts.map (fun q => (q.cls, q.offset, q.data)) =
            (s.shelf.bus.parts.filter (fun q => !(q.data.isSome && (ds.map Prod.fst).contains q.offset))).map
              (fun q => (q.cls, q.offset, q.data)) ++ ds.map fun x => (.d, x.1, some x.2)) ∧
        ((∀ r, r < 10 → ¬ closes r) → u.shelf.bus.parts = s.shelf.bus.parts))) ∧
  (∀ (s : State) (t : UpTxn) (ok : Bool), s.Between → s.shelf.bus.port = .ending t →
    exec (.forwardedTransactionComplete ok []) s = .next { s with shelf.bus := { s.shelf.bus with port := .idle } })

/-- Sections 1.5, 1.6 and 4.1 (R13, R14, R58): a beat to the monitor table or a sweep header is forwarded unchanged, and
copied only where the master is the scanner; a beat to the order producer word or the report consumer word is, from any
master. A whole beat earns its snoop; a partial one that would earn it is reported MALFORMED_WRITE, whatever memory
answers (the model's choice, log entry 28). The beats of another master to the monitor table or a sweep header are
reported when the write is answered OK, FOREIGN_MONITOR_WRITE, once with their number. A producer value taken is out of
range at 32 or more, ORDER_INDEX_BAD; else OR remembers it in WAITING, and takes it as its target otherwise, reading at
once where it was IDLE and the target differs from the consumer index. -/
def Obligations.SnoopsAreEarnedAndTaken : Prop :=
  (∀ (s : State) (m : BitVec 4) (a : Word) (b : WriteBeat) (now : Option Word),
    let v := s.judgeBeat m a b now
    let earns (x : Snoop) : Prop := v.state = s ∧ v.out = b ∧
      (b.enables = 15 → v.snoop = some x ∧ v.report = none) ∧
      (b.enables ≠ 15 → v.snoop = none ∧
        v.report.map (fun ev => (ev.kind, ev.egress, ev.slot)) = some (.malformedWrite, none, none))
    let passes : Prop := v.state = s ∧ v.out = b ∧ v.snoop = none ∧ v.report = none
    (∀ d dir k, regionOf s.shelf.bus.winsel a = .monitor d dir k →
      (m = s.cfg.node.scanner → earns (.reading d dir k b.data)) ∧ (m ≠ s.cfg.node.scanner → passes)) ∧
    (∀ d, regionOf s.shelf.bus.winsel a = .sweepHeader d →
      (m = s.cfg.node.scanner → earns (.header d (BitVec.ofNat 16 b.data.toNat))) ∧
      (m ≠ s.cfg.node.scanner → passes)) ∧
    (regionOf s.shelf.bus.winsel a = .producerWord → earns (.producer b.data m)) ∧
    (regionOf s.shelf.bus.winsel a = .consumerWord → earns (.consumer b.data)) ∧
    (regionOf s.shelf.bus.winsel a = .ordinary ∨ regionOf s.shelf.bus.winsel a = .outside → passes)) ∧
  (∀ (s u : State) (f : FwdWrite), exec .forwardedWriteGrant s = .next u →
    (u.shelf.bus.port = .write f ∨ u.shelf.bus.port = .checkRead f) →
    f.foreignBeats = (beatAddrs f.txn).filter fun a =>
      f.txn.master != s.cfg.node.scanner && (regionOf s.shelf.bus.winsel a).isMonitored) ∧
  (∀ (s : State) (f : FwdWrite) (a : Word) (rest : List Word), s.shelf.bus.port = .write f → f.foreignBeats = a :: rest →
    ∃ u ev, exec (.forwardedTransactionComplete true []) s = .next u ∧ Shelf.Submitted s.shelf u.shelf ev ∧
      ev.kind = .foreignMonitorWrite ∧ ev.value1.toNat % 16 = f.txn.master.toNat ∧
      ev.value1.toNat / 65536 % 32 = (rest.length + 1) % 32 ∧ ev.value2 = a) ∧
  (∀ (s : State) (f : FwdWrite) (v : Word) (m : BitVec 4), s.shelf.bus.port = .write f →
    f.beats.filterMap FwdBeat.snoop = [.producer v m] →
    ∃ u, exec (.forwardedTransactionComplete true []) s = .next u ∧
      u = { s with shelf := u.shelf, ord := u.ord, marks := Marks.none } ∧
      (32 ≤ v.toNat → u.ord = s.ord ∧ ∃ ev, Shelf.Submitted s.shelf u.shelf ev ∧ ev.kind = .orderIndexBad ∧ ev.value1 = v ∧
        ev.value2.toNat % 16 = m.toNat) ∧
      (v.toNat < 32 →
        (s.ord.reader = .waiting → u.ord = { s.ord with remembered := some v.toNat }) ∧
        (s.ord.reader = .idle → s.ord.consumer = v.toNat → u.ord = { s.ord with target := v.toNat }) ∧
        (s.ord.reader = .idle → s.ord.consumer ≠ v.toNat →
          u.ord = { s.ord with target := v.toNat, reader := .readingLower } ∧
          ∃ r ∈ u.shelf.bus.parts, r.cls = .d ∧ r.offset = 0x2000 + s.ord.consumer * 128 ∧ r.beats = 16 ∧ r.data = none ∧
            r.purpose = .orderLower) ∧
        (s.ord.reader ≠ .waiting → s.ord.reader ≠ .idle → u.ord = { s.ord with target := v.toNat })))

/-- Section 1.9 (R19): with the port free, the oldest class (a) request is granted before any other; with no class (a)
request and no eligible head, the oldest of class (c), and with none of those the oldest of class (d), but at a count of 4
the oldest of both together (R20). The granted request leaves its class and takes the port, where it is issued with the
parts' master ID 15, a write as one whole beat (R2 of section 1.1), and nothing else changes but the count and the waits
of the head. -/
def Obligations.PartRequestsAreGrantedByClass : Prop :=
  ∀ (s : State) (r : PartReq), s.Between → s.shelf.bus.port = .idle →
    (s.shelf.bus.parts.find? (fun q => q.cls == .a) = some r ∨
      ((∀ q ∈ s.shelf.bus.parts, q.cls ≠ .a) ∧ (s.shelf.bus.headWaits ≠ [] ∨ s.shelf.bus.accepted = []) ∧
        ((s.shelf.bus.bGrants < 4 ∧ (s.shelf.bus.parts.find? (fun q => q.cls == .c) = some r ∨
            ((∀ q ∈ s.shelf.bus.parts, q.cls ≠ .c) ∧ s.shelf.bus.parts.head? = some r))) ∨
          (4 ≤ s.shelf.bus.bGrants ∧ s.shelf.bus.parts.head? = some r)))) →
    ∃ u, exec .partAccessGrant s = .next u ∧
      u = { s with shelf.bus := { s.shelf.bus with
        parts := s.shelf.bus.parts.erase r, port := .part r, headWaits := u.shelf.bus.headWaits,
        bGrants := u.shelf.bus.bGrants } } ∧
      u.shelf.bus.headWaits = (if r.data.isSome = true then s.shelf.bus.headWaits.filter (fun o => o != r.offset)
        else s.shelf.bus.headWaits) ∧
      u.shelf.bus.downstream = some ⟨0x40000000 + BitVec.ofNat 32 (s.shelf.bus.winsel.toNat * 0x10000) +
        BitVec.ofNat 32 r.offset, 15, match r.data with
          | some w => .write [⟨w, 15⟩]
          | none => .read r.beats⟩

/-- R20: the count of consecutive class (b) grants, and the grant it gives to a waiting part request. -/
def Obligations.ArbiterCountsForwardedGrants : Prop :=
  (∀ s u : State, (exec .forwardedReadGrant s = .next u ∨ exec .forwardedWriteGrant s = .next u) →
    (s.shelf.bus.PartWaits → u.shelf.bus.bGrants = s.shelf.bus.bGrants + 1) ∧
    (¬ s.shelf.bus.PartWaits → u.shelf.bus.bGrants = 0)) ∧
  (∀ s u : State, exec .partAccessGrant s = .next u →
    ∃ r, u.shelf.bus.port = .part r ∧ r ∈ s.shelf.bus.parts ∧
      (r.cls = .a → u.shelf.bus.bGrants = s.shelf.bus.bGrants) ∧ (r.cls ≠ .a → u.shelf.bus.bGrants = 0)) ∧
  (∀ s : State, s.shelf.bus.port = .idle → s.shelf.bus.bGrants = 4 → s.shelf.bus.PartWaits →
    (∀ r ∈ s.shelf.bus.parts, r.cls ≠ .a) →
    exec .forwardedReadGrant s = .refused .noGrantDue ∧ exec .forwardedWriteGrant s = .refused .noGrantDue ∧
    ∃ u r, exec .partAccessGrant s = .next u ∧ u.shelf.bus.port = .part r ∧ s.shelf.bus.parts.head? = some r) ∧
  (∀ s u : State, s.shelf.bus.bGrants ≤ 4 →
    (exec .forwardedReadGrant s = .next u ∨ exec .forwardedWriteGrant s = .next u ∨ exec .partAccessGrant s = .next u) →
    u.shelf.bus.bGrants ≤ 4) ∧
  (∀ s u : State, exec .powerOnReset s = .next u ∨ (s.mode ≠ .inReset ∧ exec .resetnAsserted s = .next u) →
    u.shelf.bus.bGrants = 0)

/-- Section 1.7 (R17, R18): while a record's hold is open a write to a word of it is deferred, replacing the word's
earlier value; a hold that is not due does not expire; one that is due closes, and its deferred values become pending
class (d) writes at the back, in ascending word order. -/
def Obligations.ReadHoldDefersUntilItCloses : Prop :=
  (∀ (b : BusInterposer) (r : PartReq) (h : Nat) (w : Word), b.WritesOrdered → holdOf r.offset = some h →
    (b.holds.get h).opened.isSome = true → r.data = some w →
    (b.produce r).parts = b.parts ∧
    ∀ o v, (o, v) ∈ ((b.produce r).holds.get h).deferred ↔
      (o = r.offset ∧ v = w) ∨ (o ≠ r.offset ∧ (o, v) ∈ (b.holds.get h).deferred)) ∧
  (∀ (s : State) (r : Nat) (t : Clock) (ds : List (Nat × Word)), s.Between → s.shelf.bus.WritesOrdered → r < 10 →
    s.shelf.bus.holds.get r = ⟨some t, ds⟩ →
    (s.clock.microsSince t < 50 → exec (.readHoldExpiry r) s = .next s) ∧
    (50 ≤ s.clock.microsSince t → ∃ u, exec (.readHoldExpiry r) s = .next u ∧
      u = { s with shelf.bus := { s.shelf.bus with parts := u.shelf.bus.parts, holds := u.shelf.bus.holds } } ∧
      u.shelf.bus.holds = s.shelf.bus.holds.set r ⟨none, []⟩ ∧
      u.shelf.bus.parts.map (fun q => (q.cls, q.offset, q.data)) =
        (s.shelf.bus.parts.filter (fun q => !(q.data.isSome && (ds.map Prod.fst).contains q.offset))).map
          (fun q => (q.cls, q.offset, q.data)) ++ ds.map fun x => (.d, x.1, some x.2)))

/-! ## Resets and adoption -/

/-- 00_scope.md section 7 and R23 of section 1.12, with the model's choices of log entries 4 (the clock stands still), 8
(masters that wait at the port wait on; RESETN during a reset changes nothing), 27 (how many beats were issued when a
write is cut off, of which nothing is said here) and 28 (every link is DISABLED while the reset lasts): a power-on
reset, at any time, and RESETN, outside a reset, clear all work in flight. Every transaction accepted and not complete
is answered ERROR, oldest first; masters that wait at the port wait on; the beats of a write in progress that remain are
issued with their byte enables off; part requests, holds and the arbiter's count are cleared; ATTN is released (R177).
The configuration and the consumer index return to their defaults at a power-on reset and are kept at RESETN. -/
def Obligations.ResetsClearAllWork : Prop :=
  ∀ s : State,
    let cleared (u : State) : Prop :=
      u.mode = .inReset ∧ u.pending = s.pending ∧ u.clock = s.clock ∧ u.sent = s.sent ∧
        u.shelf.bus.winsel = s.shelf.bus.winsel ∧ u.shelf.bus.offers = s.shelf.bus.offers ∧
        u.shelf.bus.accepted = [] ∧ u.shelf.bus.parts = [] ∧ u.shelf.bus.bGrants = 0 ∧
        (∀ f, s.shelf.bus.port = .write f → ∃ k, u.shelf.bus.port = .ending { f.txn with
          burst := .write ((f.beats.take k).map (fun b => b.out.getD ⟨b.written.data, 0⟩) ++
            (f.beats.drop k).map fun b => ⟨b.written.data, 0⟩) }) ∧
        (∀ f, s.shelf.bus.port = .checkRead f →
          u.shelf.bus.port = .ending { f.txn with burst := .write (f.beats.map fun b => ⟨b.written.data, 0⟩) }) ∧
        (∀ t, s.shelf.bus.port = .ending t → u.shelf.bus.port = .ending t) ∧
        ((s.shelf.bus.port = .idle ∨ (∃ t, s.shelf.bus.port = .read t) ∨ ∃ r, s.shelf.bus.port = .part r) →
          u.shelf.bus.port = .idle) ∧
        (∀ r, r < 10 → u.shelf.bus.holds.get r = ⟨none, []⟩) ∧
        (∃ now : List UpTxn, now.length ≤ 1 ∧ (s.shelf.bus.port.isForwarded = true ↔ now ≠ []) ∧
          (∀ t, s.shelf.bus.port = .read t → now = [t]) ∧
          (∀ f, s.shelf.bus.port = .write f ∨ s.shelf.bus.port = .checkRead f → now = [f.txn]) ∧
          u.shelf.bus.answers = s.shelf.bus.answers ++ (now ++ s.shelf.bus.accepted).map fun t => ⟨t, none⟩) ∧
        u.shelf.rw = ⟨0, 0, 0, [], none, Table.fill 9 ⟨0, none⟩⟩ ∧
        (∀ d dir k, 1 ≤ d → d ≤ 4 → k < 96 → u.snap d dir k = ⟨.stale, none, 0, none, false, .absent⟩) ∧
        (∀ d, 1 ≤ d → d ≤ 4 → u.sweep d = none ∧ u.watch d = none ∧ u.inIntake d = false ∧ u.link d = Link.silent) ∧
        (∀ e k, e ≤ 4 → k < 96 → u.grid e k = GridEntry.freeEntry) ∧
        (∀ p, u.entry p = none) ∧ u.pa.returns = [] ∧ (∀ j, u.job j = none) ∧ (∀ d dir, u.gate d dir = none) ∧
        u.ord.target = u.ord.consumer ∧ u.ord.remembered = none ∧ u.ord.reader = .waiting ∧ u.attnLow = false ∧
        u.Between
    (∃ u, exec .powerOnReset s = .next u ∧ cleared u ∧ u.lastReset = .powerOn ∧ u.cfg = Settings.por ∧
      u.ord.consumer = 0) ∧
    (s.mode ≠ .inReset → ∃ u, exec .resetnAsserted s = .next u ∧ cleared u ∧ u.lastReset = .resetn ∧ u.cfg = s.cfg ∧
      u.ord.consumer = s.ord.consumer) ∧
    (s.mode = .inReset → exec .resetnAsserted s = .next s)

/-- Sections 1.2, 1.12, 9.1 and 11.1 (R3, R24, R162, R182): at the end of a reset, with the model's choices of log
entries 8 and 12 (waiting masters are accepted before adoption's requests become pending, so that the head waits for
none of them) and 27 (a write that the reset cut off no longer holds the port), the straps are latched, the time base
starts at 0, up to 4 waiting transactions are accepted, every equipped degree's link is DOWN with its ALIVE timer
running, every governed cell is unread, and adoption's requests become pending in class (d): the sixteen words of the
node status record, the three of the report header, the read of the producer word, and one read of each governed cell in
ascending address. -/
def Obligations.ResetEndBeginsAdoption : Prop :=
  ∀ (s0 : State) (k : ResetKind) (straps : BitVec 4),
    let s := s0.resetBegins k
    let egresses := [0, 1, 2, 3, 4].filter fun e => e == 0 || s.isEquipped e
    ∃ u, exec (.resetEnd straps) s = .next u ∧
      u = { s with
        mode := .adopting, clock := ⟨0, 0⟩, shelf := u.shelf, cg.settlements := u.cg.settlements, slc := u.slc
        adoption := ⟨s.cfg.node.equipped, false⟩ } ∧
      u.shelf.bus.winsel = straps ∧ u.shelf.bus.port = .idle ∧ u.shelf.bus.answers = s.shelf.bus.answers ∧
      u.shelf.bus.accepted = s.shelf.bus.offers.take 4 ∧ u.shelf.bus.offers = s.shelf.bus.offers.drop 4 ∧
      u.shelf.bus.headWaits = [] ∧
      u.shelf.bus.parts.map (fun r => (r.cls, r.offset, r.beats, r.data.isSome)) =
        (List.range 16).map (fun i => (.d, 0x3100 + 4 * i, 1, true)) ++
          [(.d, 0x5000, 1, true), (.d, 0x5004, 1, true), (.d, 0x5008, 1, true), (.d, 0x3000, 1, false)] ++
          egresses.flatMap (fun e => (List.range 96).map fun i => (.d, (e * 96 + i) * 4, 1, false)) ∧
      (∀ r ∈ u.shelf.bus.parts, 0x5000 ≤ r.offset → r.data = some 0) ∧
      (∀ e i, e ≤ 4 → i < 96 →
        u.settlement e i = if e = 0 ∨ s.isEquipped e = true then Settlement.unread else .settled) ∧
      (∀ d, 1 ≤ d → d ≤ 4 →
        u.link d = if s.isEquipped d = true then ⟨.down, none, some 0, [], .unknown, 0⟩ else Link.silent) ∧
      u.slc.freshFrom = none ∧ u.attnLow = false

/-- Section 4.1 (R61): the producer word's value modulo 32 becomes the consumer index, and the target while the device
still adopts; ERROR leaves them. After RESETN, and only then, a value that differs from the held index is reported
ORDERS_DISCARDED with the count and the held index. -/
def Obligations.ProducerWordSetsTheConsumer : Prop :=
  ∀ (s : State) (r : PartReq) (a : Option Word),
    s.Between → s.shelf.bus.port = .part r → r.purpose = .producerWord → r.replaced = [] →
    ∃ u, exec (.producerWordReadAnswer a) s = .next u ∧ u.shelf.bus.port = .idle ∧ u.adoption.producerRead = true ∧
      u = { s with
        mode := u.mode, shelf := u.shelf, cg.watches := u.cg.watches, ord := u.ord, slc.freshFrom := u.slc.freshFrom
        adoption := u.adoption } ∧
      u.ord.consumer = (match a with
        | some w => w.toNat % 32
        | none => s.ord.consumer) ∧
      (u.mode = .adopting → u.ord.target = (match a with
        | some w => w.toNat % 32
        | none => s.ord.target)) ∧
      (∀ w, a = some w → s.lastReset = .resetn → w.toNat % 32 ≠ s.ord.consumer →
        Shelf.Submitted s.shelf u.shelf
          { s.event .ordersDiscarded with
            value1 := BitVec.ofNat 32 ((w.toNat % 32 + 32 - s.ord.consumer) % 32)
            value2 := BitVec.ofNat 32 s.ord.consumer }) ∧
      (u.mode = .adopting → (a = none ∨ s.lastReset = .powerOn ∨ a.map (fun w => w.toNat % 32) = some s.ord.consumer) →
        u.shelf.rw = s.shelf.rw)

/-- Sections 3.7 and 11.2 (R55, R183): the answer to the read of a cell settles it or makes it wait. ERROR quarantines the
entry; an unlit word leaves it FREE; a lit line cell waits for (d, OUT); a lit L cell waits for (source, IN) where its
source is an equipped degree, and is IN_SERVICE with an unknown level otherwise. No other entry and no other settlement
changes. A read that a removed degree left outstanding is discarded (R54). -/
def Obligations.CellReadAnswersSettleTheirCells : Prop :=
  (∀ (s : State) (r : PartReq) (e slot : Nat) (a : Option Word),
    s.Between → s.shelf.bus.port = .part r → r.replaced = [] → e ≤ 4 → slot < 96 →
    (r.purpose = .adoptCell e slot ∨ r.purpose = .intakeCell e slot false) →
    let adopts := r.purpose = .adoptCell e slot
    (¬ adopts → e ≠ 0) →
    let equipped := if adopts then s.adoption.equipped else s.cfg.node.equipped
    ∃ u, (adopts → exec (.adoptionCellReadAnswer a) s = .next u) ∧ (¬ adopts → exec (.intakeCellReadAnswer a) s = .next u) ∧
      u = { s with mode := u.mode, shelf := u.shelf, cg := u.cg, ord := u.ord, slc.freshFrom := u.slc.freshFrom } ∧
      (¬ adopts → u = { s with shelf := u.shelf, cg := u.cg }) ∧ u.shelf.bus.port = .idle ∧
      (∀ e' k, e' ≤ 4 → k < 96 → (e', k) ≠ (e, slot) →
        u.grid e' k = s.grid e' k ∧ u.settlement e' k = s.settlement e' k) ∧
      (a = none → u.settlement e slot = .settled ∧ u.grid e slot = ⟨.quarantined, none, none, false, false⟩ ∧
        Shelf.Submitted s.shelf u.shelf
          { s.slotEvent .quarantined e slot with cause := 35, value1 := BitVec.ofNat 32 (s.grid e slot).state.code }) ∧
      (∀ w, a = some w →
        (cellLit w = false → u.settlement e slot = .settled ∧ u.grid e slot = s.grid e slot) ∧
        (cellLit w = true → e ≠ 0 → u.grid e slot = s.grid e slot ∧
          u.settlement e slot = .waiting ⟨e, .outward, ⟨s.now, 3 * s.period⟩, w⟩) ∧
        (cellLit w = true → e = 0 → maskHas equipped (cellSource w) = true → u.grid e slot = s.grid e slot ∧
          u.settlement e slot = .waiting ⟨cellSource w, .inward, ⟨s.now, 3 * s.period⟩, w⟩) ∧
        (cellLit w = true → e = 0 → maskHas equipped (cellSource w) = false →
          u.settlement e slot = .settled ∧ u.grid e slot = ⟨.inService, none, none, false, false⟩))) ∧
  (∀ (s : State) (r : PartReq) (d slot : Nat) (a : Option Word),
    s.Between → s.shelf.bus.port = .part r → r.replaced = [] → r.purpose = .intakeCell d slot true →
    exec (.intakeCellReadAnswer a) s = .next { s with shelf.bus := { s.shelf.bus with port := .idle } })

/-- Sections 3.7 and 11.4 (R56, R185): the event that leaves every governed cell settled and the producer word answered
ends adoption: the answer to the producer word's read or to a cell's, a settle deadline, or a sweep header of the
scanner's (R13). It ends it in this order: ADOPTED with its counts, RUNNING with the node status record's update, every
equipped degree's watch started, the fresh period started, and OR out of WAITING with a remembered value as its target,
so that the read of its first order stands behind the status writes. After any other of these events the device still
adopts, and nothing of this has happened. The event that settles the last cell of an intake, the answer to a cell's
read, a settle deadline or a sweep header, ends it: ADOPTED naming the degree, and the degree's watch started; until
then the intake goes on. -/
def Obligations.AdoptionAndIntakesEnd : Prop :=
  (∀ s : State, s.mode = .adopting → s.Between → s.OwnersMatch → s.WorkHasItsPlace →
    let tends (c : Instr) (consumer target : Nat) : Prop := ∃ u, exec c s = .next u ∧
      (u.AdoptionDone → s.EndsAdoption u consumer target) ∧ (¬ u.AdoptionDone → s.StaysAdopting u)
    (∀ r a, s.shelf.bus.port = .part r → r.replaced = [] → r.purpose = .producerWord →
      (∀ w : Word, a = some w → tends (.producerWordReadAnswer a) (w.toNat % 32) (w.toNat % 32)) ∧
      (a = none → tends (.producerWordReadAnswer a) s.ord.consumer s.ord.target)) ∧
    (∀ r e slot a, s.shelf.bus.port = .part r → r.replaced = [] → r.purpose = .adoptCell e slot →
      tends (.adoptionCellReadAnswer a) s.ord.consumer s.ord.target) ∧
    (∀ e slot w, e ≤ 4 → slot < 96 → s.settlement e slot = .waiting w → s.Past w.deadline.start w.deadline.length →
      tends (.adoptionSettleDeadline e slot) s.ord.consumer s.ord.target) ∧
    (∀ f d n, s.shelf.bus.port = .write f → f.beats.filterMap FwdBeat.snoop = [.header d n] → 1 ≤ d → d ≤ 4 →
      s.shelf.bus.CopiesAreTheScanners → tends (.forwardedTransactionComplete true []) s.ord.consumer s.ord.target)) ∧
  (∀ (s : State) (d : Nat), 1 ≤ d → d ≤ 4 → s.inIntake d = true →
    let tends (c : Instr) : Prop := ∃ u, exec c s = .next u ∧ s.TendsIntake u d
    (∀ r slot a, s.shelf.bus.port = .part r → r.replaced = [] → r.purpose = .intakeCell d slot false → slot < 96 →
      tends (.intakeCellReadAnswer a)) ∧
    (∀ slot w, slot < 96 → s.settlement d slot = .waiting w → s.Past w.deadline.start w.deadline.length →
      tends (.intakeSettleDeadline d slot)) ∧
    (∀ f n, s.mode = .running → s.shelf.bus.port = .write f → f.beats.filterMap FwdBeat.snoop = [.header d n] →
      tends (.forwardedTransactionComplete true [])))

/-- Sections 3.7 and 11.3 (R55, R184): a waiting cell is settled at its deadline, IN_SERVICE with an unknown level, and
not before; or at the first header of its watch's degree, by the current reading: an L cell IN_SERVICE with an unknown
level, a line cell QUARANTINED when DARK, else IN_SERVICE with the level when FINITE and unknown otherwise. The header is
taken when the write that carries it is answered OK (R13, R27). -/
def Obligations.WaitingCellsAreSettled : Prop :=
  (∀ (s : State) (e slot : Nat), s.Between → e ≤ 4 → slot < 96 →
    ∃ u, exec (.adoptionSettleDeadline e slot) s = .next u ∧
      ((s.mode ≠ .adopting ∨ ∀ w, s.settlement e slot = .waiting w → w.deadline.due s.now = false) → u = s) ∧
      (∀ w, s.mode = .adopting → s.settlement e slot = .waiting w → w.deadline.due s.now = true →
        u.settlement e slot = .settled ∧ u.grid e slot = ⟨.inService, none, none, false, false⟩ ∧
        u = { s with mode := u.mode, shelf := u.shelf, cg := u.cg, ord := u.ord, slc.freshFrom := u.slc.freshFrom } ∧
        ∀ e' k, e' ≤ 4 → k < 96 → (e', k) ≠ (e, slot) →
          u.grid e' k = s.grid e' k ∧ u.settlement e' k = s.settlement e' k)) ∧
  (∀ (s : State) (d slot : Nat), s.Between → 1 ≤ d → d ≤ 4 → slot < 96 →
    ∃ u, exec (.intakeSettleDeadline d slot) s = .next u ∧
      ((s.inIntake d = false ∨ ∀ w, s.settlement d slot = .waiting w → w.deadline.due s.now = false) → u = s) ∧
      (∀ w, s.inIntake d = true → s.settlement d slot = .waiting w → w.deadline.due s.now = true →
        u.settlement d slot = .settled ∧ u.grid d slot = ⟨.inService, none, none, false, false⟩ ∧
        u = { s with shelf := u.shelf, cg := u.cg } ∧
        ∀ e' k, e' ≤ 4 → k < 96 → (e', k) ≠ (d, slot) →
          u.grid e' k = s.grid e' k ∧ u.settlement e' k = s.settlement e' k)) ∧
  (∀ (s : State) (d : Nat), 1 ≤ d → d ≤ 4 →
    let u := s.settleAll d
    u = { s with shelf := u.shelf, cg.entries := u.cg.entries, cg.settlements := u.cg.settlements } ∧
    ∀ e k, e ≤ 4 → k < 96 →
      ((∀ w, s.settlement e k = .waiting w → w.degree ≠ d) →
        u.grid e k = s.grid e k ∧ u.settlement e k = s.settlement e k) ∧
      (∀ w, s.settlement e k = .waiting w → w.degree = d →
        u.settlement e k = .settled ∧
        (e = 0 → u.grid e k = ⟨.inService, none, none, false, false⟩) ∧
        (e ≠ 0 → (s.reading d w.dir k).cls = .dark → u.grid e k = ⟨.quarantined, none, none, false, false⟩) ∧
        (e ≠ 0 → (s.reading d w.dir k).cls ≠ .dark →
          u.grid e k = ⟨.inService, none, (s.reading d w.dir k).level, false, false⟩) ∧
        ((s.reading d w.dir k).cls = .dark → ∃ ev, Shelf.Submitted s.shelf u.shelf ev ∧ ev.kind = .adoptDark ∧
          ev.egress = some e ∧ ev.slot = some k ∧ ev.value2 = w.word))) ∧
  (∀ (s : State) (f : FwdWrite) (d : Nat) (n : BitVec 16), s.shelf.bus.port = .write f →
    f.beats.filterMap FwdBeat.snoop = [.header d n] → 1 ≤ d → d ≤ 4 → s.OwnersMatch →
    ∃ u, exec (.forwardedTransactionComplete true []) s = .next u ∧
      ∀ e k, e ≤ 4 → k < 96 →
        ((∀ w, s.settlement e k = .waiting w → w.degree ≠ d) → u.settlement e k = s.settlement e k) ∧
        ∀ w, s.settlement e k = .waiting w → w.degree = d →
          u.settlement e k = .settled ∧
          (e = 0 → u.grid e k = ⟨.inService, none, none, false, false⟩) ∧
          (e ≠ 0 → (s.reading d w.dir k).cls = .dark → u.grid e k = ⟨.quarantined, none, none, false, false⟩) ∧
          (e ≠ 0 → (s.reading d w.dir k).cls ≠ .dark →
            u.grid e k = ⟨.inService, none, (s.reading d w.dir k).level, false, false⟩) ∧
          ((s.reading d w.dir k).cls = .dark → ∃ ev, Shelf.Submitted s.shelf u.shelf ev ∧ ev.kind = .adoptDark ∧
            ev.egress = some e ∧ ev.slot = some k ∧ ev.value2 = w.word))

/-! ## The snapshot, the measurement service and the drift watch -/

/-- Section 2.1 (R26): what a snooped monitor table word does to the entry that its position names; no other entry
changes. -/
def Obligations.SnoopedReadingRewritesItsEntry : Prop :=
  ∀ (s : State) (d : Nat) (dir : Dir) (slot : Nat) (w : Word), 1 ≤ d → d ≤ 4 → slot < 96 →
    let u := s.takeSnoop (.reading d dir slot w)
    let x := u.snap d dir slot
    let level : Int := if w.toNat % 65536 < 32768 then (w.toNat % 65536 : Nat) else (w.toNat % 65536 : Nat) - 65536
    let cls := w.toNat / 65536 % 4
    u = { s with msu := { s.msu with entries := u.msu.entries } } ∧
    (∀ d' dir' k, 1 ≤ d' → d' ≤ 4 → k < 96 → (d', dir', k) ≠ (d, dir, slot) → u.snap d' dir' k = s.snap d' dir' k) ∧
    x.pilot = w.toNat / 262144 % 4096 ∧ x.snoop = some s.now ∧ x.expired = false ∧ x.tag = .pending ∧
    (cls = 0 → x.cls = .dark ∧ x.level = none) ∧
    (cls = 1 → level < -6000 → x.cls = .dark ∧ x.level = none) ∧
    (cls = 1 → -6000 ≤ level → level ≤ 2500 → x.cls = .finite ∧ x.level = some level) ∧
    (cls = 1 → 2500 < level → x.cls = .over ∧ x.level = none) ∧
    (cls = 2 → x.cls = .over ∧ x.level = none) ∧
    (cls = 3 → x.cls = .stale ∧ x.level = none)

/-- Sections 2.1 and 2.3 (R27, R28): a header gives its number to every pending entry of its degree, in both directions,
and becomes the last complete sweep. An entry is marked expired at 6000 ms and not before; an entry that is expired, was
never snooped, or is older than 3P reads STALE, and any other reads as its class, with its level when that is FINITE. -/
def Obligations.HeadersTagAndEntriesAge : Prop :=
  (∀ (s : State) (d : Nat) (n : BitVec 16), 1 ≤ d → d ≤ 4 →
    let u := s.tagSweep d n
    u = { s with msu := u.msu } ∧ u.sweep d = some n ∧
    (∀ c, 1 ≤ c → c ≤ 4 → c ≠ d → u.sweep c = s.sweep c) ∧
    ∀ c dir k, 1 ≤ c → c ≤ 4 → k < 96 →
      u.snap c dir k =
        if c = d ∧ (s.snap c dir k).tag = .pending then { s.snap c dir k with tag := .number n } else s.snap c dir k) ∧
  (∀ (s : State) (d : Nat) (dir : Dir) (slot : Nat), s.Between → 1 ≤ d → d ≤ 4 → slot < 96 →
    (((s.snap d dir slot).snoop = none ∨ (s.snap d dir slot).expired = true ∨
        ∃ t, (s.snap d dir slot).snoop = some t ∧ (s.now - t).toNat < 6000) →
      exec (.entryExpired d dir slot) s = .next s) ∧
    (∀ t, (s.snap d dir slot).snoop = some t → (s.snap d dir slot).expired = false → 6000 ≤ (s.now - t).toNat →
      ∃ u, exec (.entryExpired d dir slot) s = .next u ∧ u = { s with msu := { s.msu with entries := u.msu.entries } } ∧
        u.snap d dir slot = { s.snap d dir slot with expired := true } ∧
        ∀ d' dir' k, 1 ≤ d' → d' ≤ 4 → k < 96 → (d', dir', k) ≠ (d, dir, slot) → u.snap d' dir' k = s.snap d' dir' k) ∧
    (s.reading d dir slot).pilot = (s.snap d dir slot).pilot ∧
    ((s.snap d dir slot).snoop = none ∨ (s.snap d dir slot).expired = true ∨
        (∃ t, (s.snap d dir slot).snoop = some t ∧ 3 * s.period < (s.now - t).toNat) →
      (s.reading d dir slot).cls = .stale ∧ (s.reading d dir slot).level = none) ∧
    (∀ t, (s.snap d dir slot).snoop = some t → (s.snap d dir slot).expired = false →
      (s.now - t).toNat ≤ 3 * s.period →
      (s.reading d dir slot).cls = (s.snap d dir slot).cls ∧
        (s.reading d dir slot).level = if (s.snap d dir slot).cls = .finite then (s.snap d dir slot).level else none))

/-- Sections 2.5 to 2.8, 6.4 and 6.5 (R27, R33 to R38, R113 to R115): a sweep header of degree d, taken when its write
is answered OK, tags the pending entries of d and computes each open part whose degree is d and whose mark is absent or
earlier. The deviation part is the worst result of the reference channels in this sweep, LOSS, OVERLOAD, UNMEASURED, OK
in that order, with the largest deviation of those that are OK; the continuity part is read from the job's slot by its
rows in order. A measurement with a part still open waits on; one with both delivers its result to its participation,
and where it alone is pending the REPORT, or the decision, follows. A measurement whose deadline is reached delivers
UNMEASURED, with D 0, in both parts. A deadline not yet reached, and a measurement no longer pending, change nothing.
What follows rests on the model's choices: the codes of a record's results and its bits in no field (log entry 28), a
transit's REPORT of 17 records cut to the 16 lowest (28), the order suspend, then step limit (18), and hop index 0 of
MONITOR, NO_ROOM and STEP_LIMIT (19). -/
def Obligations.MeasurementsAreComputedAndDelivered : Prop :=
  (∀ (s : State) (f : FwdWrite) (d : Nat) (n : BitVec 16), s.shelf.bus.port = .write f →
    f.beats.filterMap FwdBeat.snoop = [.header d n] → 1 ≤ d → d ≤ 4 → s.OwnersMatch → s.SnapshotShaped →
    let later (mark : Option (BitVec 16)) : Prop := ∀ k, mark = some k → 1 ≤ (n - k).toNat ∧ (n - k).toNat ≤ 32767
    let ofSweep (dir : Dir) (k : Nat) : Prop := (s.snap d dir k).tag = .number n ∨ (s.snap d dir k).tag = .pending
    ∃ u, exec (.forwardedTransactionComplete true []) s = .next u ∧ u.sweep d = some n ∧
      (∀ c, 1 ≤ c → c ≤ 4 → c ≠ d → u.sweep c = s.sweep c) ∧
      (∀ c dir k, 1 ≤ c → c ≤ 4 → k < 96 → u.snap c dir k =
        if c = d ∧ (s.snap c dir k).tag = .pending then { s.snap c dir k with tag := .number n } else s.snap c dir k) ∧
      ∀ p x m, p < 32 → s.entry p = some x → x.measurement = some m → (∀ r ∈ x.refs, r.slot < 96) → m.slot < 96 →
        let devNow : Prop := m.dev = none ∧ m.devDegree = d ∧ later m.devMark
        let contNow : Prop := m.cont = none ∧ m.contDegree = d ∧ later m.contMark
        let is (c : LevelClass) (r : RefChannel) : Prop := ofSweep m.devDir r.slot ∧ (s.reading d m.devDir r.slot).cls = c
        let blind (r : RefChannel) : Prop := ¬ ofSweep m.devDir r.slot ∨ (s.reading d m.devDir r.slot).cls = .stale
        let anyRef (q : RefChannel → Prop) : Prop := ∃ r ∈ x.refs, q r
        let pilot := (s.snap d m.contDir m.slot).pilot
        let foreign : Prop := pilot ≠ 0 ∧ pilot ≠ m.pilot
        let visible : Prop := ∃ a, m.att = .hdb a ∧ a ≤ m.visibility
        let cls := (s.reading d m.contDir m.slot).cls
        let here : Prop := ofSweep m.contDir m.slot
        ∃ dev cont,
          (¬ devNow → dev = m.dev) ∧ (¬ contNow → cont = m.cont) ∧
          (devNow → ∃ a, dev = some a ∧ a.sweep = some n ∧
            (anyRef (is .dark) → a.result = .loss) ∧
            (¬ anyRef (is .dark) → anyRef (is .over) → a.result = .overload) ∧
            (¬ anyRef (is .dark) → ¬ anyRef (is .over) → anyRef blind → a.result = .unmeasured) ∧
            (¬ anyRef (is .dark) → ¬ anyRef (is .over) → ¬ anyRef blind → a.result = .ok) ∧
            (∀ r ∈ x.refs, is .finite r → ∀ l, (s.reading d m.devDir r.slot).level = some l →
              min 32767 (l - r.level).natAbs ≤ a.dev) ∧
            (a.dev = 0 ∨ ∃ r ∈ x.refs, is .finite r ∧ ∃ l, (s.reading d m.devDir r.slot).level = some l ∧
              a.dev = min 32767 (l - r.level).natAbs)) ∧
          (contNow → ∃ b, cont = some b ∧ b.sweep = some n ∧
            (¬ here ∨ cls = .stale → b.result = .unmeasured) ∧
            (here → (cls = .finite ∨ cls = .over) → foreign → b.result = .misroute) ∧
            (here → cls = .dark → visible → b.result = .noLight) ∧
            (here → (cls = .finite ∨ cls = .over) → ¬ foreign → visible → b.result = .lit) ∧
            (here → (cls = .dark ∨ ((cls = .finite ∨ cls = .over) ∧ ¬ foreign)) → ¬ visible → b.result = .notYet)) ∧
          (dev = none ∨ cont = none → u.entry p = some { x with measurement := some { m with dev := dev, cont := cont } }) ∧
          ∀ a b, dev = some a → cont = some b →
            s.Delivers u p x m a.result a.dev b.result ∧
            ((∀ q y, q ≠ p → s.entry q = some y → y.measurement = none) →
              (∀ e k w, s.settlement e k = .waiting w → w.degree ≠ d) → s.inIntake d = false → s.mode = .running →
              s.ActsOnResult u p x m a.result a.dev b.result)) ∧
  (∀ (s : State) (p : Nat), s.Between → p < 32 →
    ((s.measurementDue p = false) → exec (.measurementDeadline p) s = .next s) ∧
    (∀ x m, s.entry p = some x → x.measurement = some m →
      s.measurementDue p = decide (m.deadline.length ≤ (s.now - m.deadline.start).toNat)) ∧
    (∀ x m, s.entry p = some x → x.measurement = some m → m.deadline.length ≤ (s.now - m.deadline.start).toNat →
      ∃ u, exec (.measurementDeadline p) s = .next u ∧
        (x.role.isTransitOrTail = true →
          u = { s with shelf := u.shelf, pa.entries := u.pa.entries, gates := u.gates, slc.links := u.slc.links } ∧
          (∀ q, q ≠ p → u.entry q = s.entry q)) ∧
        (s.OwnersMatch → s.Delivers u p x m .unmeasured 0 .unmeasured ∧ s.ActsOnResult u p x m .unmeasured 0 .unmeasured)))

/-- Section 3.5 (R49, R50): an expiry of degree d's watch timer acts on every IN_SERVICE entry of d by its current
reading, reports in ascending slot order, touches no other entry, and runs on from the interval that has passed. Where the
commit level was unknown, the level that a DRIFT_CLEAR shows as the commit level is the one just taken: the model's choice
(log entry 22). -/
def Obligations.DriftWatchJudgesServiceEntries : Prop :=
  ∀ (s : State) (d : Nat), s.Between → 1 ≤ d → d ≤ 4 →
    ((∀ t, s.watch d = some t → (s.now - t.start).toNat < t.length) → exec (.driftWatchExpiry d) s = .next s) ∧
    (∀ t, s.watch d = some t → t.length ≤ (s.now - t.start).toNat →
      ∃ (u : State) (evs : Nat → Option Event), exec (.driftWatchExpiry d) s = .next u ∧
        u = { s with shelf := u.shelf, cg.entries := u.cg.entries, cg.watches := u.cg.watches } ∧
        u.shelf = ((List.range 96).filterMap evs).foldl Shelf.submit s.shelf ∧
        u.watch d = some ⟨t.start + BitVec.ofNat 32 t.length, t.length⟩ ∧
        (∀ c, 1 ≤ c → c ≤ 4 → c ≠ d → u.watch c = s.watch c) ∧
        (∀ e k, e ≤ 4 → k < 96 → (e ≠ d ∨ (s.grid e k).state ≠ .inService) → u.grid e k = s.grid e k) ∧
        (∀ k, k < 96 → (s.grid d k).state ≠ .inService → evs k = none) ∧
        ∀ k, k < 96 → (s.grid d k).state = .inService →
          let g := s.grid d k
          let x := s.reading d .outward k
          let ev (kind : EventKind) (level commit : Option Int) : Event :=
            { s.slotEvent kind d k with value1 := levelValue level, value2 := levelValue commit }
          (x.cls = .stale → u.grid d k = g ∧ evs k = none) ∧
          (x.cls = .dark → u.grid d k = { g with loss := true } ∧
            evs k = if g.loss = true then none else some (ev .channelDark none g.commitLevel)) ∧
          (x.cls = .over → u.grid d k = { g with drift := true } ∧
            evs k = if g.drift = true then none else some (ev .drift none g.commitLevel)) ∧
          ∀ l, x.level = some l →
            (g.commitLevel = none → u.grid d k = { g with commitLevel := some l, drift := false, loss := false } ∧
              evs k = if g.drift = true ∨ g.loss = true then some (ev .driftClear (some l) (some l)) else none) ∧
            ∀ c, g.commitLevel = some c →
              ((s.degree d).driftLimit < (l - c).natAbs → u.grid d k = { g with drift := true } ∧
                evs k = if g.drift = true then none else some (ev .drift (some l) (some c))) ∧
              ((l - c).natAbs ≤ (s.degree d).driftLimit → u.grid d k = { g with drift := false, loss := false } ∧
                evs k = if g.drift = true ∨ g.loss = true then some (ev .driftClear (some l) (some c)) else none))

/-- R176: a consumer value on the circular range from the consumer copy to the producer index becomes the consumer copy;
any other is ignored, without report. R177: ATTN is low while the two indices differ and its enable is on, outside reset;
it follows at each event that changes them: a record published, a consumer value taken, a SET_NODE accepted, a reset. A
record that is lost leaves it as it was. -/
def Obligations.ConsumerValueAndAttn : Prop :=
  (∀ (s : State) (v : Word), s.shelf.Bounded →
    let c := s.shelf.rw.consumer
    let p := s.shelf.rw.producer
    ((v.toNat ≤ 127 ∧ ((v.toNat : Int) - c) % 128 ≤ ((p : Int) - c) % 128) →
      s.takeSnoop (.consumer v) = { s with shelf := { s.shelf with rw := { s.shelf.rw with consumer := v.toNat } } }) ∧
    (¬ (v.toNat ≤ 127 ∧ ((v.toNat : Int) - c) % 128 ≤ ((p : Int) - c) % 128) → s.takeSnoop (.consumer v) = s)) ∧
  (∀ s : State, s.attnLow = true ↔
    s.mode ≠ .inReset ∧ s.cfg.node.attnEnable = true ∧ s.shelf.rw.producer ≠ s.shelf.rw.consumer) ∧
  (∀ (s : State) (f : FwdWrite) (v : Word), s.shelf.Bounded → s.shelf.bus.port = .write f →
    f.beats.filterMap FwdBeat.snoop = [.consumer v] →
    let c := s.shelf.rw.consumer
    let p := s.shelf.rw.producer
    let taken : Prop := v.toNat ≤ 127 ∧ ((v.toNat : Int) - c) % 128 ≤ ((p : Int) - c) % 128
    ∃ u, exec (.forwardedTransactionComplete true []) s = .next u ∧ u.shelf.rw.producer = p ∧
      (taken → u.shelf.rw.consumer = v.toNat ∧ (v.toNat = p → u.attnLow = false) ∧
        (v.toNat ≠ p → u.attnLow = (s.mode != .inReset && s.cfg.node.attnEnable))) ∧
      (¬ taken → u.shelf.rw.consumer = c ∧ u.attnLow = s.attnLow)) ∧
  (∀ (s : State) (r : PartReq) (f : Flight), s.shelf.bus.port = .part r → r.replaced = [] → r.purpose = .record →
    s.shelf.rw.flight = some f → f.left ≤ 1 →
    (f.failed = false → (s.shelf.rw.producer + 1) % 128 ≠ s.shelf.rw.consumer →
      ∃ u, exec (.reportRecordWriteAnswer true) s = .next u ∧ u.shelf.rw.producer = (s.shelf.rw.producer + 1) % 128 ∧
        u.shelf.rw.consumer = s.shelf.rw.consumer ∧ u.attnLow = (s.mode != .inReset && s.cfg.node.attnEnable)) ∧
    ∃ u, exec (.reportRecordWriteAnswer false) s = .next u ∧ u.shelf.rw.producer = s.shelf.rw.producer ∧
      u.shelf.rw.consumer = s.shelf.rw.consumer ∧ u.attnLow = s.attnLow) ∧
  (∀ (s : State) (upper : List Word), s.AwaitsOrder → upper.length = 16 → orderKind (s.orderWith upper) = 9 →
    s.setNodeRefusal (rawSettings (s.orderWith upper)) = none →
    ∃ u, exec (.setNode upper) s = .next u ∧ u.attnLow = (s.mode != .inReset &&
      decide ((orderWord (s.orderWith upper) 12).toNat / 256 % 2 = 1) && s.shelf.rw.producer != s.shelf.rw.consumer)) ∧
  (∀ s u : State, exec .powerOnReset s = .next u ∨ (s.mode ≠ .inReset ∧ exec .resetnAsserted s = .next u) →
    u.attnLow = false)

/-- Sections 8.9 and 10.5 (R160, R179 to R181): status records. An update raises the record's sequence number, writes it
to the first and the last word, and writes every other word that differs from what was last written to it since the
reset, in ascending order; under an open hold the writes are deferred. The node status record is updated, once, at each
command that changes its contents, and at no other; a job's at its start, at each change of its phase, its closing or
suspend-pending flag, its attenuation or its step number, and at its end, with its state after the event. The contents
are those of section 10.5 and of section 8.9, the hop area among them. Which end of a field its flags fill, the orders
of the deviation and continuity codes, and the low bits that a code or an index too wide for its field shows, are the
model's choice (log entry 28). -/
def Obligations.StatusRecordsFollowTheState : Prop :=
  let field (w : Word) (lo n : Nat) : Nat := w.toNat / 2 ^ lo % 2 ^ n
  (∀ (sh : Shelf) (r : Nat) (content : List Word), r < 9 → content.length = 16 →
    let t := sh.statusUpdate r content
    let seq := (sh.rw.books.get r).seq + 1
    let ws := (content.set 0 (content.getD 0 0 ||| seq.setWidth 32)).set 15 (seq.setWidth 32)
    let written (i : Nat) : Bool := i == 0 || i == 15 || match (sh.rw.books.get r).last with
      | none => true
      | some l => l.getD i 0 != ws.getD i 0
    let offsets := ((List.range 16).filter written).map fun i => holdBase r + 4 * i
    t = { sh with rw.books := t.rw.books, bus := { sh.bus with parts := t.bus.parts, holds := t.bus.holds } } ∧
    t.rw.books.get r = ⟨seq, some ws⟩ ∧ (∀ q, q < 9 → q ≠ r → t.rw.books.get q = sh.rw.books.get q) ∧
    ((sh.bus.holds.get r).opened = none →
      let kept := t.bus.parts.length - offsets.length
      t.bus.holds = sh.bus.holds ∧ (t.bus.parts.take kept).Sublist sh.bus.parts ∧
      (t.bus.parts.drop kept).map (fun q => (q.cls, q.offset, q.data, q.purpose)) =
        ((List.range 16).filter written).map fun i => (.d, holdBase r + 4 * i, some (ws.getD i 0), .status)) ∧
    ((sh.bus.holds.get r).opened.isSome = true → t.bus.parts = sh.bus.parts ∧
      ∀ i, i < 16 → written i = true → (holdBase r + 4 * i, ws.getD i 0) ∈ (t.bus.holds.get r).deferred)) ∧
  (∀ (c : Instr) (s t : State), s.Between → s.mode = .running → c ≠ .powerOnReset → c ≠ .resetnAsserted →
    exec c s = .next t →
    let node := s.shelf.rw.books.get 0
    (t.nodeContent = s.nodeContent → t.shelf.rw.books.get 0 = node) ∧
    (t.nodeContent ≠ s.nodeContent →
      t.shelf.rw.books.get 0 = ⟨node.seq + 1, some (withSequence (node.seq + 1) t.nodeContent)⟩) ∧
    ∀ j, j < 8 →
      let b := s.shelf.rw.books.get (j + 1)
      let b' := t.shelf.rw.books.get (j + 1)
      (∀ y, t.job j = some y →
        (∀ x, s.job j = some x → x.phase ≠ y.phase ∨ x.closing ≠ y.closing ∨ x.suspendPending ≠ y.suspendPending ∨
          x.att ≠ y.att ∨ x.stepNo ≠ y.stepNo) →
        b' = ⟨b.seq + 1, some (withSequence (b.seq + 1) (y.content none))⟩) ∧
      (∀ x, s.job j = some x → t.job j = none →
        b'.seq = b.seq + 1 ∧ ∃ ws, b'.last = some ws ∧ ws.getD 1 0 = x.tag ∧ field (ws.getD 0 0) 19 4 = x.key.gen.toNat ∧
          field (ws.getD 8 0) 0 3 ≠ 0) ∧
      (b' = b ∨ b'.seq = b.seq + 1) ∧ (s.job j = none → t.job j = none → b' = b)) ∧
  (∀ s : State,
    let w (i : Nat) : Word := s.nodeContent.getD i 0
    s.nodeContent.length = 16 ∧
    field (w 0) 16 1 = (if s.mode = .running then 1 else 0) ∧ field (w 0) 0 16 = 0 ∧
    (∀ d, 1 ≤ d → d ≤ 4 → field (w 0) (16 + d) 1 = if s.inIntake d = true then 1 else 0) ∧
    field (w 1) 0 16 = s.cfg.node.nodeId.toNat ∧ field (w 1) 16 4 = s.cfg.node.equipped.toNat ∧
    (∀ d, 1 ≤ d → d ≤ 4 → field (w 2) (2 * (d - 1)) 2 =
      match (s.link d).state with
      | .disabled => 0
      | .down => 1
      | .up => 2) ∧
    field (w 2) 8 6 = s.liveEntries ∧ field (w 2) 16 4 = s.liveJobs ∧
    (∀ d, 1 ≤ d → d ≤ 4 → field (w (3 + (d - 1) / 2)) (16 * ((d - 1) % 2)) 16 = (s.link d).badFrames % 65536) ∧
    (∀ d dir, 1 ≤ d → d ≤ 4 → w (5 + 2 * (d - 1) + (if dir = Dir.inward then 0 else 1)) =
      match s.gate d dir with
      | none => 0
      | some h => BitVec.ofNat 32 (2 ^ 31 + h.key.bits))) ∧
  (∀ (x : Job) (e : Option JobEnding),
    let w (i : Nat) : Word := (x.content e).getD i 0
    (x.content e).length = 16 ∧ field (w 0) 0 16 = 0 ∧ field (w 0) 16 3 = x.key.job.toNat ∧
    field (w 0) 19 4 = x.key.gen.toNat ∧ field (w 0) 23 3 = x.phase.code ∧ field (w 0) 26 2 = x.kind.code ∧
    field (w 0) 28 1 = (if x.closing = true then 1 else 0) ∧ field (w 0) 29 1 = (if x.suspendPending = true then 1 else 0) ∧
    field (w 0) 30 1 = (if x.lateAbort = true then 1 else 0) ∧ w 1 = x.tag ∧ field (w 2) 0 16 = x.key.node.toNat ∧
    field (w 2) 16 3 = x.egress % 8 ∧ field (w 2) 19 7 = x.slot % 128 ∧ field (w 3) 0 12 = x.att.code % 4096 ∧
    field (w 3) 12 12 = x.target % 4096 ∧ field (w 3) 24 8 = x.stepNo % 256 ∧ field (w 4) 12 8 = x.steps % 256 ∧
    field (w 5) 20 2 = x.backoffs % 4 ∧ field (w 5) 22 2 = x.unmeasuredRun % 4 ∧ field (w 5) 24 2 = x.noRoomRun % 4 ∧
    field (w 5) 26 2 = x.silentRun % 4 ∧ field (w 6) 0 6 = x.busyRun % 64 ∧ field (w 6) 6 4 = x.stack.length % 16 ∧
    (∀ a, x.startAtt = some a → field (w 4) 0 12 = a % 4096) ∧ (∀ a, x.lastDelta = some a → field (w 4) 20 9 = a % 512) ∧
    (∀ a, x.ceiling = some a → field (w 5) 0 9 = a % 512) ∧ (∀ p, x.plan = some p → field (w 5) 9 9 = p.delta % 512) ∧
    (∀ a, x.stack.head? = some a → field (w 6) 10 12 = a.code % 4096) ∧
    (∀ h, x.hops.find? (fun h => h.hop == x.limiting) = some h →
      field (w 7) 0 12 = h.tnext % 4096 ∧ field (w 7) 12 12 = h.factor % 4096) ∧
    (∀ k, e = some k → field (w 8) 0 3 = k.outcome.code ∧ field (w 8) 22 3 = k.left.code) ∧
    field (w 8) 3 5 = x.cause.code % 32 ∧ field (w 8) 8 4 = x.causeHop % 16 ∧
    field (w 2) 26 5 = (if x.isPath = true then x.path.length else 1) % 32 ∧ field (w 6) 22 4 = x.limiting % 16 ∧
    (∀ p, x.plan = some p → field (w 5) 18 2 = match p.outcome with
      | .step => 1
      | .commitTest => 2
      | .noRoom => 3) ∧ (x.plan = none → field (w 5) 18 2 = 0) ∧
    field (w 8) 12 5 = x.remoteCause.code % 32 ∧ field (w 8) 17 5 = x.gracefulCause.code % 32 ∧
    (∀ n, n ≤ 16 → x.hops.map HopElem.hop = List.range n →
      let area := (w 9).toNat + (w 10).toNat * 2 ^ 32 + (w 11).toNat * 2 ^ 64 + (w 12).toNat * 2 ^ 96 +
        (w 13).toNat * 2 ^ 128 + (w 14).toNat * 2 ^ 160
      (∀ h ∈ x.hops, area / 2 ^ (12 * h.hop) % 4 = h.devResult.code ∧ area / 2 ^ (12 * h.hop + 2) % 8 = h.contResult.code ∧
        area / 2 ^ (12 * h.hop + 5) % 128 = min 127 h.dev) ∧
      area / 2 ^ (12 * n) = 0))

/-! ## Orders -/

/-- Section 4.1 (R59, R60): whatever order is judged, and whatever read of one fails, the order ends: the consumer index
advances by 1, from 31 to 0, and OR is IDLE at its target, else it reads the next order. READ_ERROR carries tag 0 for the
lower half and the order's own for the upper; BAD_KIND its own. A lower half read is followed by the read of the upper. -/
def Obligations.EveryOrderAdvancesTheRing : Prop :=
  (∀ (s : State) (upper : List Word), s.AwaitsOrder → upper.length = 16 →
    let k := orderKind (s.orderWith upper)
    let ends (c : Instr) : Prop := ∃ u, exec c s = .next u ∧ s.OrderEnds u
    (k = 1 → ends (.turnUp upper)) ∧ (k = 2 → ends (.suspend upper)) ∧ (k = 3 → ends (.resume upper)) ∧
    (k = 4 → ends (.abort upper)) ∧ (k = 5 → ends (.release upper)) ∧ (k = 6 → ends (.clearWatch upper)) ∧
    (k = 7 → ends (.loadProfile upper)) ∧ (k = 8 → ends (.loadTable upper)) ∧ (k = 9 → ends (.setNode upper)) ∧
    (k = 0 ∨ 9 < k → ∃ u, exec (.badKind upper) s = .next u ∧ s.OrderEnds u ∧
      u = { s with shelf := u.shelf, ord := u.ord, marks := Marks.none } ∧
      ∃ ev, Shelf.Submitted s.shelf u.shelf ev ∧ ev.kind = .orderRefused ∧ ev.cause = 36 ∧
        ev.tag = orderWord (s.orderWith upper) 1)) ∧
  (∀ (s : State) (r : PartReq), s.shelf.bus.port = .part r → r.replaced = [] → r.purpose = .orderUpper →
    ∃ u, exec .orderUpperReadError s = .next u ∧ s.OrderEnds u ∧
      u = { s with shelf := u.shelf, ord := u.ord, marks := Marks.none } ∧
      ∃ ev, Shelf.Submitted s.shelf u.shelf ev ∧ ev.kind = .orderRefused ∧ ev.cause = 35 ∧
        ev.tag = orderWord s.lowerHalf 1) ∧
  (∀ (s : State) (r : PartReq), s.shelf.bus.port = .part r → r.replaced = [] → r.purpose = .orderLower →
    (∃ u, exec (.orderLowerReadAnswer none) s = .next u ∧ s.OrderEnds u ∧
      u = { s with shelf := u.shelf, ord := u.ord, marks := Marks.none } ∧
      ∃ ev, Shelf.Submitted s.shelf u.shelf ev ∧ ev.kind = .orderRefused ∧ ev.cause = 35 ∧ ev.tag = 0) ∧
    (∀ ws, ws.length = 16 → ∃ u, exec (.orderLowerReadAnswer (some ws)) s = .next u ∧
      u = { s with shelf := u.shelf, ord := { s.ord with reader := .readingUpper ws }, marks := Marks.none } ∧
      u.shelf.bus.port = .idle ∧ ∃ q ∈ u.shelf.bus.parts, q.cls = .d ∧
        q.offset = 0x2000 + s.ord.consumer * 128 + 64 ∧ q.beats = 16 ∧ q.data = none ∧ q.purpose = .orderUpper))

/-- Section 4.3 (R62): a TURN_UP that fails a check is refused with the reason of the first check that fails, and does
nothing but advance the ring. -/
def Obligations.TurnUpIsRefusedAtTheFirstCheck : Prop :=
  ∀ (s : State) (upper : List Word), s.AwaitsOrder → upper.length = 16 → orderKind (s.orderWith upper) = 1 →
    let r := s.orderWith upper
    let n := (orderWord r 3).toNat / 256 % 32
    let slot := (orderWord r 3).toNat % 128
    let node (i : Nat) := (orderWord r (4 + i)).toNat % 65536
    let ingress (i : Nat) := (orderWord r (4 + i)).toNat / 65536 % 8
    let egress (i : Nat) := (orderWord r (4 + i)).toNat / 1048576 % 8
    let length := 2 ≤ n ∧ n ≤ 16
    let head := node 0 = s.cfg.node.nodeId.toNat ∧ ingress 0 = 0
    let tail := egress (n - 1) = 0 ∧ ∀ i, i < n - 1 → egress i ≠ 0
    let form := ∀ i, i < n → node i ≠ 0 ∧ node i ≠ 65535 ∧ ingress i ≤ 4 ∧ egress i ≤ 4 ∧ (i ≠ 0 → ingress i ≠ 0) ∧
      ingress i ≠ egress i
    let distinct := ∀ i j, i < j → j < n → node i ≠ node j
    let free := s.liveJobs < 8 ∧ s.liveEntries < 32
    let refused (c : Nat) : Prop := ∃ u ev, exec (.turnUp upper) s = .next u ∧ s.OrderEnds u ∧
      u = { s with shelf := u.shelf, ord := u.ord, marks := Marks.none } ∧
      Shelf.Submitted s.shelf u.shelf ev ∧ ev.kind = .orderRefused ∧ ev.cause = c ∧ ev.tag = orderWord r 1
    (¬ length → refused 30) ∧
    (length → ¬ head → refused 31) ∧
    (length → head → ¬ tail → refused 21) ∧
    (length → head → tail → ¬ form → refused 22) ∧
    (length → head → tail → form → ¬ distinct → refused 32) ∧
    (length → head → tail → form → distinct →
      (96 ≤ slot → refused 33) ∧
      (slot < 96 →
        (s.isEquipped (egress 0) = false → refused 23) ∧
        (s.isEquipped (egress 0) = true →
          (¬ free → refused 24) ∧
          (free →
            ((s.grid (egress 0) slot).state ≠ .free → refused 26) ∧
            ((s.grid (egress 0) slot).state = .free →
              (s.isSettled (egress 0) = false → refused 28) ∧
              (s.isSettled (egress 0) = true → (s.link (egress 0)).state ≠ .up → refused 29))))))

/-- Sections 3.2, 4.3 and 5.3 (R42, R63, R64, R83): a TURN_UP that passes every check starts a PATH job with the lowest
free number, its next generation and its clamped target, takes the lowest free participation and the grid entry, is
reported, and sends its CLAIM to the egress link. Nothing else changes. That the CLAIM's record shows OK as code 0 and
NOT_YET as code 1, and 0 in the bits of no field, is the model's choice (log entry 28). -/
def Obligations.AcceptedTurnUpStartsItsJob : Prop :=
  ∀ (s : State) (upper : List Word), s.AwaitsOrder → upper.length = 16 → orderKind (s.orderWith upper) = 1 →
    s.turnUpRefusal (turnUpOf (s.orderWith upper)) = none → s.GatesHeldByWatchers →
    let r := s.orderWith upper
    let o := turnUpOf r
    let e := (o.path.getD 0 default).egress.toNat
    let j := s.freeJob
    let p := s.freeEntry
    let key : JobKey := ⟨s.cfg.node.nodeId, BitVec.ofNat 3 j, s.cfg.nextGen.get j⟩
    let target := if o.target < (s.degree e).floor then (s.degree e).floor else if 2500 < o.target then 2500 else o.target
    j < 8 ∧ p < 32 ∧ s.job j = none ∧ s.entry p = none ∧ (∀ i, i < j → s.job i ≠ none) ∧ (∀ q, q < p → s.entry q ≠ none) ∧
    ∃ u x y, exec (.turnUp upper) s = .next u ∧ u.job j = some x ∧ u.entry p = some y ∧
      u = { s with
        shelf := u.shelf, cg.entries := u.cg.entries, ord := u.ord, cfg.nextGen := u.cfg.nextGen
        pa.entries := u.pa.entries, jobs := u.jobs, slc.links := u.slc.links, marks := Marks.none } ∧
      x.key = key ∧ x.kind = .path ∧ x.phase = .claiming ∧ x.egress = e ∧ x.slot = o.slot ∧ x.source = 5 ∧ x.att = .block ∧
      x.target = target ∧ x.tag = orderWord r 1 ∧ x.pilot = o.pilot ∧ x.path = o.path ∧ x.entry = some p ∧
      x.profile = s.cfg.profiles.get o.profile ∧ x.stepNo = 0 ∧ x.stack = [] ∧
      x.timer = some ⟨.confirmWindow, ⟨s.now, 250 + 50 * o.path.length⟩⟩ ∧
      y.key = key ∧ y.role = .head ∧ y.slot = o.slot ∧ y.ingress = 0 ∧ y.egress = e ∧ y.hop = 0 ∧ y.path = o.path ∧
      y.opened = false ∧ y.closing = false ∧ y.refs = s.referenceSet e .outward o.slot ∧
      y.budget = (s.degree e).budget ∧ y.limit = (s.degree e).limit ∧
      u.grid e o.slot = ⟨.reserved, some p, none, false, false⟩ ∧ u.cfg.nextGen.get j = s.cfg.nextGen.get j + 1 ∧
      (∀ i, i ≠ j → u.job i = s.job i ∧ u.cfg.nextGen.get i = s.cfg.nextGen.get i) ∧
      (∀ q, q ≠ p → u.entry q = s.entry q) ∧
      (∀ e' k, e' ≤ 4 → k < 96 → (e', k) ≠ (e, o.slot) → u.grid e' k = s.grid e' k) ∧
      (∀ d, 1 ≤ d → d ≤ 4 → d ≠ e → u.link d = s.link d) ∧
      (∃ ev, Shelf.Submitted s.shelf u.shelf ev ∧ ev.kind = .jobStarted ∧ ev.key = some key ∧ ev.tag = orderWord r 1 ∧
        ev.cause = if target = o.target then 0 else 46) ∧
      (∃ ev, Shelf.Submitted s.shelf u.shelf ev ∧ ev.kind = .orderDone ∧ ev.cause = 1 ∧ ev.tag = orderWord r 1) ∧
      ((s.link e).queue.length < 8 → ∃ c, (u.link e).queue = (s.link e).queue ++ [.path ⟨key, 0, .claim c⟩] ∧
        c.slot.toNat = o.slot ∧ c.pilot.toNat = o.pilot ∧ c.path = o.path ∧
        c.target = BitVec.ofNat 16 target ∧ c.start = BitVec.ofNat 16 x.profile.start ∧
        ∃ h, c.display = [h] ∧ h.hop = 0 ∧ h.node = s.cfg.node.nodeId ∧ h.results = 0x10 ∧ h.dev = 0 ∧
          h.budget = BitVec.ofNat 16 y.budget ∧ h.limit = BitVec.ofNat 16 y.limit)

/-- Sections 4.3, 8.5, 8.6 and 8.7 (R65, R148, R151, R154 to R156): SUSPEND, RESUME and ABORT by the phase of the job that
holds the number. An order that is refused, NO_JOB or BAD_STATE, changes no job. -/
def Obligations.JobOrdersActByPhase : Prop :=
  ∀ (s : State) (upper : List Word), s.AwaitsOrder → upper.length = 16 →
    let r := s.orderWith upper
    let k := orderKind r
    let j := (orderWord r 2).toNat % 8
    let immediate := (orderWord r 2).toNat / 256 % 2 = 1
    let refused (c : Instr) (cause : Nat) : Prop := ∃ u ev, exec c s = .next u ∧
      u = { s with shelf := u.shelf, ord := u.ord, marks := Marks.none } ∧
      Shelf.Submitted s.shelf u.shelf ev ∧ ev.kind = .orderRefused ∧ ev.cause = cause
    let becomes (c : Instr) (y : Job) : Prop := ∃ u ev, exec c s = .next u ∧
      u = { s with shelf := u.shelf, ord := u.ord, jobs := s.jobs.set j (some y), marks := Marks.none } ∧
      Shelf.Submitted s.shelf u.shelf ev ∧ ev.kind = .orderDone ∧ ev.cause = k
    (s.job j = none →
      (k = 2 → refused (.suspend upper) 40) ∧ (k = 3 → refused (.resume upper) 40) ∧ (k = 4 → refused (.abort upper) 40)) ∧
    ∀ x, s.job j = some x →
      (k = 2 →
        (x.phase = .claiming ∨ x.phase = .committing ∨ x.phase = .unwinding → refused (.suspend upper) 41) ∧
        (x.phase = .gating ∨ x.phase = .settling ∨ x.phase = .measuring →
          becomes (.suspend upper) { x with suspendPending := true }) ∧
        (x.phase = .waiting →
          becomes (.suspend upper) { x with phase := .suspended, suspendPending := false, timer := none, plan := none }) ∧
        (x.phase = .suspended → becomes (.suspend upper) x)) ∧
      (k = 3 →
        (x.phase ≠ .suspended → refused (.resume upper) 41) ∧
        (x.phase = .suspended →
          becomes (.resume upper) { x with phase := .waiting, timer := some ⟨.wait, ⟨s.now, x.profile.settle⟩⟩ })) ∧
      (k = 4 →
        (x.phase = .committing → becomes (.abort upper) { x with lateAbort := true }) ∧
        (x.phase ≠ .committing → x.closing = true → becomes (.abort upper) x) ∧
        (x.phase = .unwinding → ¬ immediate → becomes (.abort upper) x) ∧
        (x.phase = .suspended ∨ x.phase = .waiting → x.closing = false → x.att ≠ .block → ¬ immediate →
          ∃ u, exec (.abort upper) s = .next u ∧ s.OrderEnds u ∧
            u = { s with
              shelf := u.shelf, ord := u.ord, jobs := u.jobs, pa.entries := u.pa.entries, marks := Marks.none } ∧
            u.jobs = s.jobs.set j (some
              { x with
                phase := .unwinding, suspendPending := false, plan := none, ownRecord := none, display := none
                emergency := false, cause := .ordered, causeHop := 0
                timer := some ⟨.unwind, ⟨s.now, x.profile.settle⟩⟩ }) ∧
            ∀ q, u.entry q =
              if x.entry = some q then (s.entry q).map fun e => { e with measurement := none } else s.entry q) ∧
        (x.phase ≠ .committing → x.phase ≠ .unwinding → x.closing = false → ¬ immediate →
          ∃ u, exec (.abort upper) s = .next u ∧ s.OrderEnds u ∧ s.GracefullyAborts u j x .ordered 0) ∧
        (x.phase ≠ .committing → x.closing = false → immediate →
          ∃ u, exec (.abort upper) s = .next u ∧ s.OrderEnds u ∧ s.EmergencyAborts u j x .ordered 0 .none))

/-- Sections 3.3, 3.5 and 4.3 (R48, R52, R66): RELEASE frees a QUARANTINED entry and is refused NOT_QUARANTINED for any
other pair; CLEAR_WATCH clears the flags of every IN_SERVICE entry of an equipped degree and takes its commit level
afresh, with DRIFT_CLEAR for each that had a flag, and is refused DEGREE otherwise. No other entry changes. -/
def Obligations.ReleaseAndClearWatchActOnTheGrid : Prop :=
  ∀ (s : State) (upper : List Word), s.AwaitsOrder → upper.length = 16 →
    let r := s.orderWith upper
    let k := orderKind r
    let e := (orderWord r 2).toNat % 8
    let slot := (orderWord r 2).toNat / 256 % 128
    let answered (u : State) (kind : EventKind) (cause : Nat) : Prop :=
      ∃ ev, Shelf.Submitted s.shelf u.shelf ev ∧ ev.kind = kind ∧ ev.cause = cause ∧ ev.egress = some e ∧
        ev.tag = orderWord r 1
    let untouched (u : State) : Prop := u = { s with shelf := u.shelf, ord := u.ord, marks := Marks.none }
    let gridOnly (u : State) : Prop :=
      u = { s with shelf := u.shelf, ord := u.ord, cg.entries := u.cg.entries, marks := Marks.none }
    (k = 5 → e ≤ 4 → slot < 96 → (s.grid e slot).state = .quarantined →
      ∃ u, exec (.release upper) s = .next u ∧ gridOnly u ∧ answered u .orderDone 5 ∧
        u.grid e slot = ⟨.free, none, none, false, false⟩ ∧
        ∀ e' i, e' ≤ 4 → i < 96 → (e', i) ≠ (e, slot) → u.grid e' i = s.grid e' i) ∧
    (k = 5 → (4 < e ∨ 96 ≤ slot ∨ (s.grid e slot).state ≠ .quarantined) →
      ∃ u, exec (.release upper) s = .next u ∧ untouched u ∧ answered u .orderRefused 37) ∧
    (k = 6 → s.isEquipped e = false →
      ∃ u, exec (.clearWatch upper) s = .next u ∧ untouched u ∧ answered u .orderRefused 23) ∧
    (k = 6 → s.isEquipped e = true →
      ∃ u, exec (.clearWatch upper) s = .next u ∧ gridOnly u ∧ answered u .orderDone 6 ∧
        (∀ e' i, e' ≤ 4 → i < 96 → (e' ≠ e ∨ (s.grid e' i).state ≠ .inService) → u.grid e' i = s.grid e' i) ∧
        ∀ i, i < 96 → (s.grid e i).state = .inService →
          u.grid e i =
            { s.grid e i with commitLevel := (s.reading e .outward i).level, drift := false, loss := false } ∧
          ((s.grid e i).drift = true ∨ (s.grid e i).loss = true →
            ∃ ev, Shelf.Submitted s.shelf u.shelf ev ∧ ev.kind = .driftClear ∧ ev.egress = some e ∧ ev.slot = some i ∧
              ev.cause = 6))

/-- Sections 4.5 and 4.6 (R68, R69): LOAD_PROFILE replaces the profile named by its six fields, clamped in the rule's
order, and shows which clamps applied; LOAD_TABLE replaces the table, each value above 4000 made 4000, and shows how many.
No other setting changes. -/
def Obligations.LoadedProfileAndTableAreClamped : Prop :=
  ∀ (s : State) (upper : List Word), s.AwaitsOrder → upper.length = 16 →
    let r := s.orderWith upper
    let field (w lo n : Nat) := (orderWord r w).toNat / 2 ^ lo % 2 ^ n
    let done (u : State) (k : Nat) (v : Word) : Prop :=
      ∃ ev, Shelf.Submitted s.shelf u.shelf ev ∧ ev.kind = .orderDone ∧ ev.cause = k ∧ ev.value2 = v ∧
        ev.tag = orderWord r 1
    (orderKind r = 7 →
      let i := field 2 0 2
      let minStep := if field 3 0 12 = 0 then 1 else if 200 < field 3 0 12 then 200 else field 3 0 12
      let maxStep := if field 3 16 12 < minStep then minStep else if 300 < field 3 16 12 then 300 else field 3 16 12
      let start := if field 4 0 12 < 1000 then 1000 else if 2500 < field 4 0 12 then 2500 else field 4 0 12
      let visibility := if 2500 < field 4 16 12 then 2500 else field 4 16 12
      let settle := if field 5 4 2 = 0 then 20 else if field 5 4 2 = 1 then 50 else if field 5 4 2 = 2 then 200 else 1000
      let clamped (a b n : Nat) : Nat := if a = b then 0 else n
      ∃ u, exec (.loadProfile upper) s = .next u ∧
        u = { s with shelf := u.shelf, ord := u.ord, cfg.profiles := u.cfg.profiles, marks := Marks.none } ∧
        u.cfg.profiles.get i = ⟨minStep, maxStep, field 5 0 3, settle, start, visibility⟩ ∧
        (∀ q, q < 4 → q ≠ i → u.cfg.profiles.get q = s.cfg.profiles.get q) ∧
        done u 7 (BitVec.ofNat 32 (clamped (field 3 0 12) minStep 1 + clamped (field 3 16 12) maxStep 2 +
          clamped (field 4 0 12) start 4 + clamped (field 4 16 12) visibility 8))) ∧
    (orderKind r = 8 →
      ∃ u, exec (.loadTable upper) s = .next u ∧
        u = { s with shelf := u.shelf, ord := u.ord, cfg.sensitivity := u.cfg.sensitivity, marks := Marks.none } ∧
        (∀ v, v < 32 → u.cfg.sensitivity.get v =
          if 4000 < field (2 + v / 2) (16 * (v % 2)) 16 then 4000 else field (2 + v / 2) (16 * (v % 2)) 16) ∧
        done u 8 (BitVec.ofNat 32 ((List.range 32).countP fun v => 4000 < field (2 + v / 2) (16 * (v % 2)) 16)))

/-- Sections 3.7, 4.8 and 9.1 (R54, R55, R72, R163): a SET_NODE is refused NODE_ID, or BUSY where it would change the node
ID or the mask while work is live; otherwise it replaces every setting, clamped. A degree that leaves the mask has its
entries FREE, its watch and intake ended and its link DISABLED; one that joins begins its intake with 96 reads and its
link is DOWN; one that stays keeps its entries and its link, and its watch restarts where its interval changed. That a
SET_NODE which fails both checks is refused NODE_ID is the model's choice (log entry 28). -/
def Obligations.SetNodeReplacesTheSettings : Prop :=
  ∀ (s : State) (upper : List Word), s.AwaitsOrder → upper.length = 16 → orderKind (s.orderWith upper) = 9 →
    let r := s.orderWith upper
    let field (w lo n : Nat) := (orderWord r w).toNat / 2 ^ lo % 2 ^ n
    let nodeId := BitVec.ofNat 16 (field 2 0 16)
    let mask := BitVec.ofNat 4 (field 2 16 4)
    let work := s.liveEntries ≠ 0 ∨ s.liveJobs ≠ 0 ∨ s.pa.returns ≠ []
    let changes := nodeId ≠ s.cfg.node.nodeId ∨ mask ≠ s.cfg.node.equipped
    let refused (c : Nat) : Prop := ∃ u ev, exec (.setNode upper) s = .next u ∧
      u = { s with shelf := u.shelf, ord := u.ord, marks := Marks.none } ∧
      Shelf.Submitted s.shelf u.shelf ev ∧ ev.kind = .orderRefused ∧ ev.cause = c
    let within (lo hi n : Nat) := if n < lo then lo else if hi < n then hi else n
    (nodeId = 65535 → refused 39) ∧
    (nodeId ≠ 65535 → work → changes → refused 38) ∧
    (nodeId ≠ 65535 → (¬ work ∨ ¬ changes) →
      ∃ u, exec (.setNode upper) s = .next u ∧
        u = { s with
          shelf := u.shelf, cg := u.cg, ord := u.ord, cfg := { s.cfg with node := u.cfg.node }, slc.links := u.slc.links
          marks := Marks.none } ∧
        (∃ ev, Shelf.Submitted s.shelf u.shelf ev ∧ ev.kind = .orderDone ∧ ev.cause = 9) ∧
        u.cfg.node.nodeId = nodeId ∧ u.cfg.node.equipped = mask ∧ u.cfg.node.drop = within 0 2500 (field 11 0 12) ∧
        u.cfg.node.period = within 100 2000 (field 11 16 12) ∧ u.cfg.node.scanner = BitVec.ofNat 4 (field 12 0 4) ∧
        u.cfg.node.attnEnable = decide (field 12 8 1 = 1) ∧
        (∀ k, k < 96 → u.grid 0 k = s.grid 0 k ∧ u.settlement 0 k = s.settlement 0 k) ∧
        ∀ d, 1 ≤ d → d ≤ 4 →
          let budget := within 10 300 (field (2 + d) 0 10)
          let code := field (2 + d) 30 2
          u.degree d = ⟨budget, within (budget + 10) 600 (field (2 + d) 10 10), within 10 500 (field (2 + d) 20 10),
            if code = 0 then 500 else if code = 1 then 2000 else if code = 2 then 10000 else 30000,
            within 0 2500 (field (6 + d) 0 12), within 0 2500 (field (6 + d) 16 12)⟩ ∧
          (s.isEquipped d = true → maskHas mask d = false →
            (∀ k, k < 96 → u.grid d k = GridEntry.freeEntry ∧ u.settlement d k = .settled) ∧ u.watch d = none ∧
            u.inIntake d = false ∧ u.link d = Link.silent ∧
            ((s.link d).state = .up → ∃ ev, Shelf.Submitted s.shelf u.shelf ev ∧ ev.kind = .linkDown ∧
              ev.egress = some d ∧ ev.value1 = 1)) ∧
          (s.isEquipped d = false → maskHas mask d = true →
            (∀ k, k < 96 → u.grid d k = s.grid d k ∧ u.settlement d k = .unread) ∧ u.inIntake d = true ∧
            u.watch d = s.watch d ∧ u.link d = ⟨.down, none, some s.now, [], .unknown, 0⟩ ∧
            ∀ k, k < 96 → ∃ q ∈ u.shelf.bus.parts, q.cls = .d ∧ q.offset = (d * 96 + k) * 4 ∧ q.beats = 1 ∧
              q.data = none ∧ q.purpose = .intakeCell d k false) ∧
          (s.isEquipped d = maskHas mask d →
            (∀ k, k < 96 → u.grid d k = s.grid d k ∧ u.settlement d k = s.settlement d k) ∧
            u.inIntake d = s.inIntake d ∧ u.link d = s.link d ∧
            u.watch d = if s.isEquipped d = true ∧ (s.degree d).driftInterval ≠ (u.degree d).driftInterval then
              (s.watch d).map (fun _ => ⟨s.now, (u.degree d).driftInterval⟩) else s.watch d))

/-! ## Supervisory links -/

/-- Sections 9.2 and 9.3 (R164, R166, R167): a frame that fails a check is counted, up to 65535, and does nothing else;
an UP link unheard for 350 ms goes DOWN with its queue emptied, LINK_DOWN and the loss of its paths; at 100 ms an ALIVE
with the flag of the fresh period joins a queue of fewer than 8, and the timer starts again; the fresh period ends at
1000 ms. A timer not reached changes nothing. That the other bits of an ALIVE's flags are sent 0 is the model's choice
(log entry 28). -/
def Obligations.LinkTimersAndBadFrames : Prop :=
  (∀ (s : State) (d : Nat), s.Between → 1 ≤ d → d ≤ 4 →
    let l := s.link d
    (∀ bytes, decodeFrame bytes = none →
      (s.mode = .inReset ∨ l.state = .disabled → exec (.badFrame d bytes) s = .next s) ∧
      (s.mode ≠ .inReset → l.state ≠ .disabled → ∃ u, exec (.badFrame d bytes) s = .next u ∧
        u = { s with
          shelf := u.shelf
          slc.links := s.slc.links.set (d - 1) { l with badFrames := min 65535 (l.badFrames + 1) } } ∧
        Shelf.OnlyProduces s.shelf u.shelf)) ∧
    ((l.state ≠ .up ∨ ∀ t, l.heardAt = some t → (s.now - t).toNat < 350) → exec (.livenessExpiry d) s = .next s) ∧
    (∀ t, l.state = .up → l.heardAt = some t → 350 ≤ (s.now - t).toNat → s.JobsHaveEntries →
      ∃ u, exec (.livenessExpiry d) s = .next u ∧
        u = { s with
          shelf := u.shelf, pa.entries := u.pa.entries, gates := u.gates, jobs := u.jobs, slc.links := u.slc.links } ∧
        u.link d = { l with state := .down, heardAt := none, queue := [], neighbour := .unknown } ∧
        (∃ ev, Shelf.Submitted s.shelf u.shelf ev ∧ ev.kind = .linkDown ∧ ev.egress = some d ∧ ev.value1 = 0) ∧
        s.LosesPaths u d) ∧
    ((∀ t, l.aliveFrom = some t → (s.now - t).toNat < 100) → exec (.aliveTimerExpiry d) s = .next s) ∧
    (∀ t, l.aliveFrom = some t → 100 ≤ (s.now - t).toNat →
      let alive : Frame := .alive (if s.slc.freshFrom = none then 0 else 1)
      let m : Link := { l with
        aliveFrom := some s.now, queue := if l.queue.length < 8 then l.queue ++ [alive] else l.queue }
      exec (.aliveTimerExpiry d) s = .next { s with slc.links := s.slc.links.set (d - 1) m })) ∧
  (∀ s : State, s.Between →
    ((∀ t, s.slc.freshFrom = some t → (s.now - t).toNat < 1000) → exec .freshPeriodEnd s = .next s) ∧
    (∀ t, s.slc.freshFrom = some t → 1000 ≤ (s.now - t).toNat →
      exec .freshPeriodEnd s = .next { s with slc.freshFrom := none }))

/-- Sections 9.2 and 9.3 (R165, R168): a valid ALIVE sets the neighbour record from its flag. On a link that was UP a
set flag after NOT_FRESH alone is a restart: it is reported, and PA acts as at the loss of the link. On a DOWN link it
brings the link UP, with LINK_UP and nothing else. That the other bits of its flags are ignored is the model's choice
(log entry 28). -/
def Obligations.AliveSetsTheNeighbourRecord : Prop :=
  ∀ (s : State) (d : Nat) (flags : Byte), s.Between → 1 ≤ d → d ≤ 4 → s.mode ≠ .inReset →
    let l := s.link d
    let fresh := flags.toNat % 2 = 1
    let record := if fresh then NeighbourFresh.fresh else .notFresh
    let m : Link := { l with state := .up, heardAt := some s.now, neighbour := record }
    let heard : State := { s with slc.links := s.slc.links.set (d - 1) m }
    (l.state = .up → ¬ (fresh ∧ l.neighbour = .notFresh) → exec (.alive d flags) s = .next heard) ∧
    (l.state = .up → fresh → l.neighbour = .notFresh → s.JobsHaveEntries →
      ∃ u, exec (.alive d flags) s = .next u ∧
        u = { s with
          shelf := u.shelf, pa.entries := u.pa.entries, gates := u.gates, jobs := u.jobs, slc.links := u.slc.links } ∧
        (u.link d).state = .up ∧ (u.link d).heardAt = some s.now ∧ (u.link d).neighbour = .fresh ∧
        (∃ tail, (u.link d).queue = l.queue ++ tail) ∧
        (∃ ev, Shelf.Submitted s.shelf u.shelf ev ∧ ev.kind = .neighbourRestart ∧ ev.egress = some d) ∧
        s.LosesPaths u d) ∧
    (l.state = .down → ∃ u, exec (.alive d flags) s = .next u ∧ u = { heard with shelf := u.shelf } ∧
      Shelf.OnlyProduces s.shelf u.shelf ∧
      Shelf.Submitted s.shelf u.shelf { s.event .linkUp with egress := some d }) ∧
    (l.state = .disabled → exec (.alive d flags) s = .next s)

/-- Section 9.4 (R169, R170). A frame handed to a link joins the queue of an UP link that holds fewer than 8, is lost with
TXQ_FULL at a full queue, and is lost without report at a link that is not UP. The front frame leaves its queue when it
has been sent whole, as the bytes of section 12.3 with their CRC, which join a trace of what was sent: the trace is the
model's own (log entry 25). -/
def Obligations.FramesQueueAndLeaveInOrder : Prop :=
  ∀ (s : State) (d : Nat) (f : PathFrame), 1 ≤ d → d ≤ 4 →
    let l := s.link d
    ((l.state = .disabled ∨ l.state = .down) → s.send d f = s) ∧
    (l.state = .up → l.queue.length < 8 →
      s.send d f = { s with slc.links := s.slc.links.set (d - 1) { l with queue := l.queue ++ [.path f] } }) ∧
    (l.state = .up → 8 ≤ l.queue.length → ∃ ev, s.send d f = { s with shelf := s.shelf.submit ev } ∧ ev.kind = .txqFull ∧
      ev.egress = some d ∧ ev.key = some f.key ∧ ev.value1 = packWord [⟨f.body.code, 0, 8⟩, ⟨f.step.toNat, 8, 8⟩]) ∧
    (s.Between → ∀ g rest, l.queue = g :: rest →
      exec (.frameSent d) s = .next { s with
        slc.links := s.slc.links.set (d - 1) { l with queue := rest }
        sent := s.sent ++ [(d, frameBytes g ++ bytes16 (crc16 (frameBytes g)))] })

/-- Sections 5.2, 9.1 and 9.2 (R82, R162, R165): a path frame on a DISABLED link, or in reset, is not taken. Elsewhere one
that arrives on the other link of what it names, or that names nothing live, is discarded, reported STRAY_FRAME with its
mark, and does nothing but what any valid frame does to its link. A CLAIM, and a COMMITTED that meets a return record, are
judged by their own rules. A frame with a code that names no value (R188), a CLAIM too, is stray: out of turn where its
key fits a live PATH job or a live transit or tail, on either link and at a closing job too, and no match otherwise; but a
closing entry discards it without report (R100). That a key which fits makes it out of turn on the other link as well is
the model's choice (log entries 16 and 28). -/
def Obligations.UnmatchedFramesAreStray : Prop :=
  ∀ (s : State) (i : Instr) (d : Nat) (f : PathFrame), i.frame = some (d, f) → i.wellFormed = true →
    ((s.mode = .inReset ∨ (s.link d).state = .disabled) → exec i s = .next s) ∧
    (s.mode ≠ .inReset → (s.link d).state ≠ .disabled →
      let strays (mark : Word) : Prop := ∃ u, exec i s = .next u ∧
        u = { s with
          shelf := u.shelf
          slc.links := s.slc.links.set (d - 1) { s.link d with state := .up, heardAt := some s.now }
          marks := Marks.none } ∧
        s.StrayReported u d f mark
      let fits : Prop := (∃ x, s.job f.key.job.toNat = some x ∧ x.key = f.key ∧ x.isPath = true) ∨
        ∃ p x, p < 32 ∧ s.entry p = some x ∧ x.key = f.key ∧ x.role.isTransitOrTail = true
      ((∀ b, f.body ≠ .claim b) → codesOk f.body = true →
        (s.matchFrame d f = .wrongLink → strays 0) ∧
        (s.matchFrame d f = .noMatch → (f.body ≠ .committed ∨ ∀ r ∈ s.pa.returns, r.key = f.key → r.egress ≠ d) →
          strays 1)) ∧
      (codesOk f.body = false →
        (∀ b, f.body = .claim b → (fits → strays 2) ∧ (¬ fits → strays 1)) ∧
        ((∀ b, f.body ≠ .claim b) →
          (s.matchFrame d f = .wrongLink → fits ∧ strays 2) ∧
          (s.matchFrame d f = .noMatch → ¬ fits ∧ strays 1) ∧
          (∀ j x, s.matchFrame d f = .head j → s.job j = some x →
            ∃ u, exec i s = .next u ∧ s.StrayReported u d f 2 ∧ u.jobs = s.jobs ∧ u.pa = s.pa ∧ u.cg = s.cg) ∧
          (∀ p x, s.matchFrame d f = .entry p → s.entry p = some x →
            ∃ u, exec i s = .next u ∧ u.jobs = s.jobs ∧ u.cg = s.cg ∧ u.pa.returns = s.pa.returns ∧
              u.entry p = some { x with orphanFrom := some s.now } ∧ (∀ q, q ≠ p → u.entry q = s.entry q) ∧
              (x.closing = false → s.StrayReported u d f 2) ∧
              (x.closing = true → s.Between → (s.link d).state = .up → u.shelf = s.shelf)))))

/-- Sections 5.2 and 6.1 (R82, R104): what a matched frame may touch. One that matches an entry leaves every other
entry, every job, every other grid entry and every other gate as they were; one that matches a head job leaves every
other job, and every entry and grid entry but the job's own. Neither touches the snapshot, the configuration, the order
ring or adoption. In turn or out of turn, it starts the hold limit again of the gate that the participation holds and
goes on holding. -/
def Obligations.MatchedFramesTouchTheirOwn : Prop :=
  ∀ (s : State) (i : Instr) (d : Nat) (f : PathFrame),
    i.frame = some (d, f) → i.wellFormed = true → (∀ b, f.body ≠ .claim b) → s.mode ≠ .inReset →
    (s.link d).state ≠ .disabled →
    (∀ p x, s.matchFrame d f = .entry p → s.entry p = some x → x.egress ≤ 4 → x.slot < 96 →
      1 ≤ x.watched.1 → x.watched.1 ≤ 4 →
      ∃ u, exec i s = .next u ∧
        u = { s with
          shelf := u.shelf, cg.entries := u.cg.entries, pa := u.pa, gates := u.gates, slc.links := u.slc.links
          marks := Marks.none } ∧
        (∀ q, q ≠ p → u.entry q = s.entry q) ∧
        (∀ e k, e ≤ 4 → k < 96 → (e, k) ≠ (x.egress, x.slot) → u.grid e k = s.grid e k) ∧
        (∀ c dir, 1 ≤ c → c ≤ 4 → (c, dir) ≠ x.watched → u.gate c dir = s.gate c dir) ∧
        (∀ g, u.gate x.watched.1 x.watched.2 = some g → g.holder = p → g.since = s.now) ∧
        (f.body ≠ .commit → u.pa.returns = s.pa.returns)) ∧
    (∀ j x, s.matchFrame d f = .head j → s.job j = some x → s.JobsHaveEntries → s.GatesHeldByWatchers →
      x.egress ≤ 4 → x.slot < 96 →
      ∃ u, exec i s = .next u ∧
        u = { s with
          shelf := u.shelf, cg.entries := u.cg.entries, pa.entries := u.pa.entries, gates := u.gates, jobs := u.jobs
          slc.links := u.slc.links, marks := Marks.none } ∧
        (∀ i, i ≠ j → u.job i = s.job i) ∧ (∀ q, x.entry ≠ some q → u.entry q = s.entry q) ∧
        (∀ e k, e ≤ 4 → k < 96 → (e, k) ≠ (x.egress, x.slot) → u.grid e k = s.grid e k) ∧
        (∀ c dir, 1 ≤ c → c ≤ 4 → (c, dir) ≠ (x.egress, .outward) → u.gate c dir = s.gate c dir) ∧
        (∀ p e g, x.entry = some p → s.entry p = some e → u.gate e.watched.1 e.watched.2 = some g → g.holder = p →
          g.since = s.now))

/-! ## Claims, confirmation, refusal, commit and abort -/

/-- Section 5.3 (R84, R85): a CLAIM that fails a check is answered by a REFUSE on its link with the reason of the first
check that fails and this node's hop index, and leaves nothing else behind: no entry, no grid entry, no report of its own.
Check 2 is spelled out: the ranges, the path entries, and a display of one record for each node before this. The model's
choices: those records may stand in any order, and the REFUSE restarts no hold limit, whatever key the CLAIM bears (log
entry 28); the FREE cells that beats which wait for a check read would light, and their participations, count as taken
(log entry 9). -/
def Obligations.ClaimIsRefusedAtTheFirstCheck : Prop :=
  ∀ (s : State) (d : Nat) (key : JobKey) (n : Byte) (b : ClaimBody),
    (Instr.claim d key n b).wellFormed = true → codesOk (.claim b) = true → s.mode ≠ .inReset →
    (s.link d).state ≠ .disabled →
    let k := b.display.length
    let e := b.path.getD k default
    let egress := e.egress.toNat
    let slot := b.slot.toNat
    let isTail := k + 1 = b.path.length
    let ingress := (s.reading d .inward slot).cls
    let place := k < b.path.length ∧ e.node = s.cfg.node.nodeId ∧ s.cfg.node.nodeId ≠ 0 ∧ e.ingress.toNat = d
    let entries := s.liveEntries + min s.shelf.bus.promised.length (8 - s.liveJobs) < 32
    let free := (s.grid egress slot).state = .free ∧ (egress, slot) ∉ s.shelf.bus.promised
    let newKey := ∀ p x, s.entry p = some x → x.key ≠ key
    let pathForm := (b.path.map PathEntry.node).Nodup ∧ ∀ (i : Nat) (x : PathEntry), b.path[i]? = some x →
      x.node ≠ 0 ∧ x.node ≠ 65535 ∧ x.ingress.toNat ≤ 4 ∧ x.egress.toNat ≤ 4 ∧ (i ≠ 0 → x.ingress ≠ 0) ∧
      x.ingress ≠ x.egress
    let displayForm := (∀ i, i < k → (b.display.countP fun r => r.hop.toNat == i) = 1) ∧ ∀ r ∈ b.display,
      (b.path[r.hop.toNat]?).map PathEntry.node = some r.node ∧ r.dev.toNat ≤ 32767 ∧ 10 ≤ r.budget.toNat ∧
      r.budget.toNat ≤ 300 ∧ r.budget.toNat + 10 ≤ r.limit.toNat ∧ r.limit.toNat ≤ 600 ∧ r.count.toNat ≤ 95 ∧
      r.tnext.toNat ≤ 4000
    let form := slot < 96 ∧ b.pilot.toNat ≤ 4095 ∧ b.target.toNat ≤ 2500 ∧ 1000 ≤ b.start.toNat ∧ b.start.toNat ≤ 2500 ∧
      b.visibility.toNat ≤ 2500 ∧ pathForm ∧ displayForm
    let refused (c : Byte) : Prop := ∃ u, exec (.claim d key n b) s = .next u ∧
      u = { s with shelf := u.shelf, slc.links := u.slc.links, marks := Marks.none } ∧
      (∀ i, 1 ≤ i → i ≤ 4 → i ≠ d → u.link i = s.link i) ∧
      ((s.link d).queue.length < 8 → u.link d = { s.link d with
        state := .up, heardAt := some s.now
        queue := (s.link d).queue ++ [.path ⟨key, 0, .refuse c (BitVec.ofNat 8 k)⟩] } ∧
        (s.Between → (s.link d).state = .up → u.shelf = s.shelf))
    (¬ place → refused 19) ∧
    (place →
      (¬ form → refused 22) ∧
      (form →
        (s.mode = .adopting → refused 20) ∧
        (s.mode = .running →
          (¬ (isTail ↔ egress = 0) → refused 21) ∧
          ((isTail ↔ egress = 0) →
            (egress ≠ 0 → s.isEquipped egress = false → refused 23) ∧
            ((egress = 0 ∨ s.isEquipped egress = true) →
              (¬ entries → refused 24) ∧
              (entries → ¬ newKey → refused 25) ∧
              (entries → newKey → ¬ free → refused 26) ∧
              (entries → newKey → free →
                (ingress = .finite ∨ ingress = .over → refused 27) ∧
                (ingress ≠ .finite → ingress ≠ .over →
                  (s.isSettled (if egress = 0 then d else egress) = false → refused 28) ∧
                  (s.isSettled (if egress = 0 then d else egress) = true → egress ≠ 0 → (s.link egress).state ≠ .up →
                    refused 29))))))))

/-- Sections 3.2, 5.2 and 5.3 (R42, R81, R86, R87): a CLAIM that passes every check takes the lowest free participation
and the grid entry, takes its reference set and figures and its route attenuation, and adds its hop record. A transit
hands the CLAIM on to its egress; a tail opens its route with a write of its L cell and answers CONFIRM. Nothing else
changes. That the hop record shows OK as code 0 and NOT_YET as code 1, and 0 in the bits of no field, is the model's
choice (log entry 28). -/
def Obligations.AcceptedClaimTakesTheCell : Prop :=
  ∀ (s : State) (d : Nat) (key : JobKey) (n : Byte) (b : ClaimBody) (c : ClaimPlace),
    (Instr.claim d key n b).wellFormed = true → codesOk (.claim b) = true → s.mode ≠ .inReset →
    (s.link d).state ≠ .disabled → s.claimPlace d b = some c → s.claimRefusal d key b c = none → s.GatesHeldByWatchers →
    let k := b.display.length
    let slot := b.slot.toNat
    let isTail := k + 1 = b.path.length
    let p := s.freeEntry
    let e := c.egress
    let w : Nat × Dir := if isTail then (d, .inward) else (e, .outward)
    p < 32 ∧ s.entry p = none ∧ (∀ q, q < p → s.entry q ≠ none) ∧ e ≤ 4 ∧ slot < 96 ∧
    ∃ u x h, exec (.claim d key n b) s = .next u ∧ u.entry p = some x ∧
      u = { s with
        shelf := u.shelf, cg.entries := u.cg.entries, pa.entries := u.pa.entries, slc.links := u.slc.links
        marks := Marks.none } ∧
      x.key = key ∧ x.role = (if isTail then .tail else .transit) ∧ x.slot = slot ∧ x.ingress = d ∧ x.egress = e ∧
      x.hop = k ∧ x.path = b.path ∧ x.pilot = b.pilot.toNat ∧ x.target = b.target.toNat ∧ x.start = b.start.toNat ∧
      x.visibility = b.visibility.toNat ∧ x.opened = decide isTail ∧ x.closing = false ∧
      x.refs = s.referenceSet w.1 w.2 slot ∧ x.budget = (s.degree w.1).budget ∧ x.limit = (s.degree w.1).limit ∧
      x.row = s.tableRow x.refs.length ∧ x.orphanFrom = some s.now ∧ x.measurement = none ∧
      x.routeAtt = some (if isTail then s.cfg.node.drop else (s.degree e).express) ∧
      (∀ q, q ≠ p → u.entry q = s.entry q) ∧ u.grid e slot = ⟨.reserved, some p, none, false, false⟩ ∧
      (∀ e' i, e' ≤ 4 → i < 96 → (e', i) ≠ (e, slot) → u.grid e' i = s.grid e' i) ∧
      h.hop = BitVec.ofNat 8 k ∧ h.node = s.cfg.node.nodeId ∧ h.results = 0x10 ∧ h.dev = 0 ∧
      h.budget = BitVec.ofNat 16 x.budget ∧ h.limit = BitVec.ofNat 16 x.limit ∧
      h.count = BitVec.ofNat 8 x.refs.length ∧
      h.tnext = BitVec.ofNat 16 (x.row.getD (depthClassOf ((x.start : Int) - x.target)) 0) ∧
      (¬ isTail → s.Hands u e ⟨key, n, .claim { b with display := b.display ++ [h] }⟩) ∧
      (isTail → s.Hands u d ⟨key, 0, .confirm (b.display ++ [h])⟩ ∧
        u.shelf.Writes .c (cellOffset 0 slot) (mkCell d 0 (.hdb s.cfg.node.drop)) (.route p key))

/-- Sections 5.3, 6.3 and 7.1 (R87, R88, R106, R110, R126): a CONFIRM opens the route of a RESERVED transit and is
handed up; at a head in CLAIMING a complete display makes the per-hop array and begins the ignition, with its gate and
its INTENT, or turns away at a gate held by another; one that is not complete aborts the job. In any other state it is
out of turn. The order of the codes by which a record's results are read is the model's choice (log entry 28). -/
def Obligations.ConfirmOpensRoutesAndBeginsRamps : Prop :=
  ∀ (s : State) (d : Nat) (key : JobKey) (n : Byte) (ds : List HopRecord),
    let f : PathFrame := ⟨key, n, .confirm ds⟩
    (Instr.confirm d key n ds).wellFormed = true → codesOk f.body = true → s.mode ≠ .inReset →
    (s.link d).state ≠ .disabled →
    (∀ p x, s.matchFrame d f = .entry p → s.entry p = some x → x.closing = false →
      (x.opened = true → ∃ u, exec (.confirm d key n ds) s = .next u ∧ s.StrayReported u d f 2 ∧
        u.entry p = some { x with orphanFrom := some s.now } ∧ u.cg = s.cg) ∧
      (x.opened = false → x.egress ≤ 4 → x.slot < 96 → ∃ u, exec (.confirm d key n ds) s = .next u ∧
        u.entry p = some { x with orphanFrom := some s.now, opened := true } ∧ u.cg = s.cg ∧
        u.shelf.Writes .c (cellOffset x.egress x.slot) (mkCell x.ingress 0 (.hdb (x.routeAtt.getD 0))) (.route p x.key) ∧
        s.Hands u x.ingress f)) ∧
    (∀ j x, s.matchFrame d f = .head j → s.job j = some x → x.closing = false →
      (x.phase ≠ .claiming → ∃ u, exec (.confirm d key n ds) s = .next u ∧ s.StrayReported u d f 2 ∧
        u.job j = some x ∧ u.cg = s.cg) ∧
      (x.phase = .claiming → displayHolds ds x.path 0 x.path.length claimFiguresOk = false →
        ∃ u, exec (.confirm d key n ds) s = .next u ∧ s.EmergencyAborts u j x .display 0 .none) ∧
      (∀ p e, x.phase = .claiming → displayHolds ds x.path 0 x.path.length claimFiguresOk = true →
        x.suspendPending = false → x.stepNo < 255 → x.entry = some p → s.entry p = some e →
        1 ≤ e.watched.1 → e.watched.1 ≤ 4 →
        ∃ u y, exec (.confirm d key n ds) s = .next u ∧ u.job j = some y ∧ u.cg = s.cg ∧
          y.hops.map HopElem.hop = List.range x.path.length ∧
          (∀ h ∈ y.hops, ∃ r ∈ ds, h.hop = r.hop.toNat ∧ h.node = r.node ∧ h.budget = r.budget.toNat ∧
            h.limit = r.limit.toNat ∧ h.count = r.count.toNat ∧ h.dev = r.dev.toNat ∧ h.tnext = r.tnext.toNat ∧
            h.devResult.code = r.results.toNat % 4 ∧ h.contResult.code = r.results.toNat / 16 % 8 ∧ h.factor = 1000 ∧
            h.used = none) ∧
          ((∀ g, s.gate e.watched.1 e.watched.2 = some g → g.holder = p) →
            y.phase = .gating ∧ y.timer = some ⟨.readyBusyWindow, ⟨s.now, 250 + 50 * x.path.length⟩⟩ ∧
            u.entry p = some { e with opened := true } ∧
            u.gate e.watched.1 e.watched.2 = some ⟨p, e.key, s.now, x.stepNo + 1, x.att⟩ ∧
            s.Hands u x.egress ⟨x.key, BitVec.ofNat 8 (x.stepNo + 1),
              .intent (BitVec.ofNat 16 x.att.code) (BitVec.ofNat 16 x.target)⟩) ∧
          (∀ g, s.gate e.watched.1 e.watched.2 = some g → g.holder ≠ p → x.busyRun < 39 →
            y.phase = .waiting ∧ y.timer = some ⟨.retry, ⟨s.now, 150 + 50 * j⟩⟩ ∧ y.busyRun = x.busyRun + 1 ∧
            u.entry p = some { e with opened := true } ∧ u.gate e.watched.1 e.watched.2 = some g)))

/-- Sections 5.3, 5.5, 5.6 and 8.5 (R89, R91, R95, R148): a REFUSE ends a job in CLAIMING, frees its participation and
leaves its grid entry FREE with no write; elsewhere a REFUSE or an ALARM aborts the job with REMOTE_ALARM, and ends one
in COMMITTING COMMIT_UNCONFIRMED; a COMMITTED ends one in COMMITTING COMMITTED. A closing job discards all three, with
no report and no effect but that of any valid frame on its link and its hold limit (R104, R153, R165). A transit hands a
REFUSE up, freed when RESERVED, closing when OPEN. -/
def Obligations.RefuseAlarmAndCommittedEndJobs : Prop :=
  ∀ (s : State) (d : Nat) (key : JobKey) (n cause hop : Byte), 1 ≤ d → d ≤ 4 → s.mode ≠ .inReset →
    (s.link d).state ≠ .disabled → cause.toNat ≤ 46 →
    let refuse : PathFrame := ⟨key, n, .refuse cause hop⟩
    let committed : PathFrame := ⟨key, n, .committed⟩
    let ends (c : Instr) (j : Nat) (x : Job) (outcome : Nat) (code : Nat) : Prop :=
      ∃ u ev, exec c s = .next u ∧ u.job j = none ∧ Shelf.Submitted s.shelf u.shelf ev ∧ ev.kind = .jobEnd ∧
        ev.key = some x.key ∧ ev.tag = x.tag ∧ ev.cause = code ∧ ev.value1.toNat / 2 ^ 24 % 8 = outcome
    (∀ j x, s.job j = some x → x.closing = false →
      (s.matchFrame d refuse = .head j →
        (∀ p e, x.phase = .claiming → x.entry = some p → s.entry p = some e → e.egress ≤ 4 → e.slot < 96 →
          ends (.refuse d key n cause hop) j x 4 cause.toNat ∧
          ∃ u, exec (.refuse d key n cause hop) s = .next u ∧ u.entry p = none ∧
            u.grid e.egress e.slot = GridEntry.freeEntry ∧
            u = { s with
              shelf := u.shelf, cg.entries := u.cg.entries, pa.entries := u.pa.entries, gates := u.gates, jobs := u.jobs
              slc.links := u.slc.links, marks := Marks.none }) ∧
        (x.phase = .committing → ends (.refuse d key n cause hop) j x 2 cause.toNat ∧
          ends (.alarm d key n cause hop) j x 2 cause.toNat) ∧
        (x.phase ≠ .claiming → x.phase ≠ .committing → ∃ u, exec (.refuse d key n cause hop) s = .next u ∧
          s.EmergencyAborts u j x .remoteAlarm hop.toNat (causeOf cause)) ∧
        (x.phase ≠ .committing → ∃ u, exec (.alarm d key n cause hop) s = .next u ∧
          s.EmergencyAborts u j x .remoteAlarm hop.toNat (causeOf cause))) ∧
      (s.matchFrame d committed = .head j →
        (x.phase = .committing → ends (.committed d key n) j x 1 x.cause.code) ∧
        (x.phase ≠ .committing → ∃ u, exec (.committed d key n) s = .next u ∧ s.StrayReported u d committed 2 ∧
          u.job j = some x))) ∧
    (∀ j x, s.job j = some x → x.closing = true →
      let discards (c : Instr) : Prop := ∃ u, exec c s = .next u ∧
        u = { s with
          shelf := u.shelf, gates := u.gates
          slc.links := s.slc.links.set (d - 1) { s.link d with state := .up, heardAt := some s.now }, marks := Marks.none } ∧
        (s.Between → (s.link d).state = .up → u.shelf = s.shelf)
      (s.matchFrame d refuse = .head j → discards (.refuse d key n cause hop)) ∧
      (s.matchFrame d ⟨key, n, .alarm cause hop⟩ = .head j → discards (.alarm d key n cause hop)) ∧
      (s.matchFrame d committed = .head j → discards (.committed d key n))) ∧
    (∀ p x, s.matchFrame d refuse = .entry p → s.entry p = some x → x.closing = false → x.egress ≤ 4 → x.slot < 96 →
      ∃ u, exec (.refuse d key n cause hop) s = .next u ∧ s.Hands u x.ingress refuse ∧
        (x.opened = false → u.entry p = none ∧ u.grid x.egress x.slot = GridEntry.freeEntry) ∧
        (x.opened = true → u.cg = s.cg ∧
          u.entry p = some { x with
            orphanFrom := some s.now, closing := true, measurement := none, ownRecord := none, heldReport := none } ∧
          u.shelf.Writes .a (cellOffset x.egress x.slot) (mkCell x.ingress 0 .block) (.closing p)))

/-- Sections 3.2, 5.5, 5.6 and 5.7 (R44, R90 to R93, R95, R96): a COMMIT puts an OPEN entry's cell IN_SERVICE and frees
the entry; a transit records the return and hands it on, a tail answers COMMITTED, which passes up through the record.
An ABORT closes an entry with a BLOCK write and is handed on. An ALARM is handed up, and a KEEP on, by an entry that
changes only its orphan timer. That an ABORT's closing word carries the ingress as its source at a transit that was
never opened too is the model's choice, and so is that of two return records with one key and one egress a COMMITTED
takes the oldest (log entry 28). -/
def Obligations.CommitAbortAlarmAndKeepAtEntries : Prop :=
  ∀ (s : State) (d : Nat) (key : JobKey) (n cause hop : Byte), 1 ≤ d → d ≤ 4 → s.mode ≠ .inReset →
    (s.link d).state ≠ .disabled → cause.toNat ≤ 46 →
    (∀ p x, s.entry p = some x → x.egress ≤ 4 → x.slot < 96 →
      let restarted : Participation := { x with orphanFrom := some s.now }
      (s.matchFrame d ⟨key, n, .commit⟩ = .entry p → x.closing = false → x.opened = true →
        ∃ u, exec (.commit d key n) s = .next u ∧ u.entry p = none ∧
          u.grid x.egress x.slot = ⟨.inService, none,
            if x.egress = 0 then none else (s.reading x.egress .outward x.slot).level, false, false⟩ ∧
          (x.role = .transit → s.Hands u x.egress ⟨key, n, .commit⟩ ∧
            u.pa.returns = (if s.pa.returns.length < 32 then s.pa.returns else s.pa.returns.tail) ++
              [⟨key, x.ingress, x.egress, s.now⟩]) ∧
          (x.role = .tail → s.Hands u x.ingress ⟨key, 0, .committed⟩ ∧ u.pa.returns = s.pa.returns)) ∧
      (s.matchFrame d ⟨key, n, .commit⟩ = .entry p → x.closing = false → x.opened = false →
        ∃ u, exec (.commit d key n) s = .next u ∧ s.StrayReported u d ⟨key, n, .commit⟩ 2 ∧ u.cg = s.cg ∧
          u.entry p = some restarted) ∧
      (s.matchFrame d ⟨key, n, .abort cause⟩ = .entry p →
        ∃ u, exec (.abortFrame d key n cause) s = .next u ∧ u.cg = s.cg ∧
          (x.role = .transit → s.Hands u x.egress ⟨key, n, .abort cause⟩) ∧
          (x.closing = true → u.entry p = some restarted) ∧
          (x.closing = false →
            u.entry p =
              some { restarted with closing := true, measurement := none, ownRecord := none, heldReport := none } ∧
            u.shelf.Writes .a (cellOffset x.egress x.slot) (mkCell x.ingress 0 .block) (.closing p))) ∧
      (s.matchFrame d ⟨key, n, .alarm cause hop⟩ = .entry p →
        ∃ u, exec (.alarm d key n cause hop) s = .next u ∧ s.Hands u x.ingress ⟨key, n, .alarm cause hop⟩ ∧
          u.entry p = some restarted ∧ u.cg = s.cg) ∧
      (s.matchFrame d ⟨key, n, .keep⟩ = .entry p →
        ∃ u, exec (.keep d key n) s = .next u ∧ u.entry p = some restarted ∧ u.cg = s.cg ∧
          (x.role = .transit → x.closing = false → s.Hands u x.egress ⟨key, n, .keep⟩))) ∧
    (∀ r before after, s.matchFrame d ⟨key, n, .committed⟩ = .noMatch → s.pa.returns = before ++ r :: after →
      r.key = key → r.egress = d → (∀ q ∈ before, q.key = key → q.egress ≠ d) →
      ∃ u, exec (.committed d key n) s = .next u ∧ s.Hands u r.ingress ⟨key, n, .committed⟩ ∧
        u.pa.returns = before ++ after ∧ u.pa.entries = s.pa.entries ∧ u.jobs = s.jobs ∧ u.cg = s.cg)

/-! ## The step cycle -/

/-- Sections 3.2, 6.3, 6.4, 6.5 and 6.8 (R43, R107, R108, R112, R114, R116, R122) at a transit or tail that is not
closing: an INTENT takes the gate and goes on, or is answered READY by a tail, or BUSY where another holds the gate;
READY and BUSY pass up through a transit that took their INTENT, and a BUSY releases its gate; a MEASURE records the
cycle, asks for a measurement and goes on; a REPORT of the cycle is held, or paired with the transit's own record and
handed up; a STEP_END releases the gate, discards what is held and goes on. Anything else is out of turn. The model's
choices: a REPORT of 16 records that lacks the transit's hop index is handed up with the 16 of the lowest (R188), and
the records of others keep their bits in no field (log entry 28); a head attenuation of 4096..65535 is that number of
hdB (log entry 17). -/
def Obligations.StepCycleAtTransitsAndTails : Prop :=
  ∀ (s : State) (d p : Nat) (key : JobKey) (n : Byte) (x : Participation), 1 ≤ d → d ≤ 4 → s.mode ≠ .inReset →
    (s.link d).state ≠ .disabled → s.entry p = some x → x.closing = false → x.egress ≤ 4 → x.slot < 96 →
    1 ≤ x.watched.1 → x.watched.1 ≤ 4 →
    let gate (u : State) := u.gate x.watched.1 x.watched.2
    let others := ∃ g, gate s = some g ∧ g.holder ≠ p
    let heard : Participation := { x with orphanFrom := some s.now }
    let takes (f : PathFrame) := s.matchFrame d f = .entry p
    let strays (c : Instr) (f : PathFrame) : Prop :=
      ∃ u, exec c s = .next u ∧ s.StrayReported u d f 2 ∧ u.entry p = some heard ∧ u.cg = s.cg
    (∀ a t : BitVec 16,
      let f : PathFrame := ⟨key, n, .intent a t⟩
      takes f →
      (x.opened = false ∨ x.target ≠ t.toNat → strays (.intent d key n a t) f) ∧
      (x.opened = true → x.target = t.toNat → ∃ u, exec (.intent d key n a t) s = .next u ∧
        u.entry p = some { heard with intents := if x.role = .transit then n :: x.intents else x.intents } ∧
        u.grid x.egress x.slot = (if (s.grid x.egress x.slot).state = .reserved then
          { s.grid x.egress x.slot with state := .ramping } else s.grid x.egress x.slot) ∧
        (others → gate u = gate s ∧ s.Hands u x.ingress ⟨key, n, .busy (BitVec.ofNat 8 x.hop)⟩) ∧
        (¬ others → gate u = some ⟨p, key, s.now, n.toNat, Atten.ofCode a.toNat⟩ ∧
          (x.role = .transit → s.Hands u x.egress f) ∧ (x.role = .tail → s.Hands u x.ingress ⟨key, n, .ready⟩)))) ∧
    (takes ⟨key, n, .ready⟩ →
      (x.opened = true → n ∈ x.intents → ∃ u, exec (.ready d key n) s = .next u ∧ u.entry p = some heard ∧ u.cg = s.cg ∧
        s.Hands u x.ingress ⟨key, n, .ready⟩) ∧
      (x.opened = false ∨ n ∉ x.intents → strays (.ready d key n) ⟨key, n, .ready⟩)) ∧
    (∀ hop : Byte, takes ⟨key, n, .busy hop⟩ →
      (x.opened = true → n ∈ x.intents → ∃ u, exec (.busy d key n hop) s = .next u ∧ u.entry p = some heard ∧
        u.cg = s.cg ∧ s.Hands u x.ingress ⟨key, n, .busy hop⟩ ∧ (others → gate u = gate s) ∧ (¬ others → gate u = none)) ∧
      (x.opened = false ∨ n ∉ x.intents → strays (.busy d key n hop) ⟨key, n, .busy hop⟩)) ∧
    (∀ a t : BitVec 16,
      let f : PathFrame := ⟨key, n, .measure a t⟩
      takes f →
      (x.opened = false → strays (.measure d key n a t) f) ∧
      (x.opened = true → ∃ u m, exec (.measure d key n a t) s = .next u ∧ u.cg = s.cg ∧
        u.entry p = some { heard with
          ownRecord := none, heldReport := none, cycle := some ⟨n, Atten.ofCode a.toNat, t.toNat⟩, measurement := some m } ∧
        m.devDegree = x.watched.1 ∧ m.devDir = x.watched.2 ∧ m.contDegree = x.continuity.1 ∧ m.contDir = x.continuity.2 ∧
        m.slot = x.slot ∧ m.pilot = x.pilot ∧ m.att = Atten.ofCode a.toNat ∧ m.visibility = x.visibility ∧
        m.devMark = s.sweep x.watched.1 ∧ m.contMark = s.sweep x.continuity.1 ∧ m.deadline = ⟨s.now, 3 * s.period⟩ ∧
        m.dev = none ∧ m.cont = none ∧ (x.role = .transit → s.Hands u x.egress f))) ∧
    (∀ ds : List HopRecord, ds.length ≤ 16 → displayCodesOk ds = true →
      let f : PathFrame := ⟨key, n, .report ds⟩
      takes f →
      (x.opened = false ∨ (∀ c, x.cycle = some c → c.step ≠ n) → strays (.report d key n ds) f) ∧
      (∀ c, x.opened = true → x.cycle = some c → c.step = n → ∃ u, exec (.report d key n ds) s = .next u ∧ u.cg = s.cg ∧
        (x.ownRecord = none → u.entry p = some { heard with heldReport := some ds }) ∧
        (∀ r, x.ownRecord = some r → u.entry p = some { heard with ownRecord := none, heldReport := none } ∧
          s.Hands u x.ingress ⟨key, n, .report ((addRecord r ds).take 16)⟩))) ∧
    (∀ decision : Byte, decision.toNat ≤ 2 →
      let f : PathFrame := ⟨key, n, .stepEnd decision⟩
      takes f →
      (x.opened = false → strays (.stepEnd d key n decision) f) ∧
      (x.opened = true → ∃ u, exec (.stepEnd d key n decision) s = .next u ∧ u.cg = s.cg ∧
        u.entry p = some { heard with measurement := none, ownRecord := none, heldReport := none, intents := [] } ∧
        (others → gate u = gate s) ∧ (¬ others → gate u = none) ∧ (x.role = .transit → s.Hands u x.egress f)))

/-- Sections 6.3, 6.4, 6.6, 7.2 and 8.2 (R109, R110, R115, R119, R127, R132, R141, R142) at a head that is not closing:
a READY in turn ends the window and writes the step, or the ignition where A is BLOCK, with what it makes of g, last Δ
and S_used; a BUSY in turn counts, releases the gate and waits the retry delay, and the 40th aborts CONGESTED; a REPORT
in turn that is complete is held for the head's own result, and one that is not aborts DISPLAY. A READY, BUSY or REPORT
in another phase, or with another step number, is out of turn. -/
def Obligations.StepCycleAtTheHead : Prop :=
  ∀ (s : State) (d j : Nat) (key : JobKey) (n : Byte) (x : Job), 1 ≤ d → d ≤ 4 → s.mode ≠ .inReset →
    (s.link d).state ≠ .disabled → s.job j = some x → x.closing = false → x.egress ≤ 4 → x.slot < 96 →
    s.matchFrame d ⟨key, n, .ready⟩ = .head j →
    let awaited := x.phase = .gating ∧ n.toNat = x.stepNo + 1
    let strays (c : Instr) (f : PathFrame) : Prop :=
      ∃ u, exec c s = .next u ∧ s.StrayReported u d f 2 ∧ u.job j = some x ∧ u.cg = s.cg
    (¬ awaited → strays (.ready d key n) ⟨key, n, .ready⟩ ∧ ∀ hop, strays (.busy d key n hop) ⟨key, n, .busy hop⟩) ∧
    (∀ a, awaited → (x.att = .block ∧ a = max x.profile.start x.target ∨
        ∃ b pl, x.att = .hdb b ∧ x.plan = some pl ∧ a = b - pl.delta) →
      ∃ u y, exec (.ready d key n) s = .next u ∧ u.job j = some y ∧ y.att = .hdb a ∧
        y.stack = (x.att :: x.stack).take 8 ∧ y.stepNo = x.stepNo + 1 ∧ y.phase = .settling ∧
        y.timer = some ⟨.settle, ⟨s.now, x.profile.settle⟩⟩ ∧ y.plan = none ∧ y.busyRun = 0 ∧ y.silentRun = 0 ∧
        y.lastPilot = x.pilot ∧ y.cycleMeasuresStep = decide (x.att ≠ .block) ∧
        y.steps = (if x.att = .block then x.steps else min 255 (x.steps + 1)) ∧
        y.lastDelta = (if x.att = .block then x.lastDelta else x.plan.map Plan.delta) ∧
        u.shelf.Writes .c (cellOffset x.egress x.slot) (mkCell x.source x.pilot (.hdb a)) (.step key) ∧
        u.grid x.egress x.slot = (if (s.grid x.egress x.slot).state = .reserved then
          { s.grid x.egress x.slot with state := .ramping } else s.grid x.egress x.slot) ∧ x.TakesUsed y) ∧
    (∀ hop : Byte, awaited → ∃ u y, exec (.busy d key n hop) s = .next u ∧ u.job j = some y ∧ y.silentRun = 0 ∧
      (x.busyRun < 39 → y.phase = .waiting ∧ y.busyRun = x.busyRun + 1 ∧
        y.timer = some ⟨.retry, ⟨s.now, 150 + 50 * j⟩⟩ ∧ y.stepNo = x.stepNo ∧ y.att = x.att ∧ y.plan = x.plan ∧
        ∀ p e g, x.entry = some p → s.entry p = some e → u.gate e.watched.1 e.watched.2 = some g → g.holder ≠ p) ∧
      (39 ≤ x.busyRun → y.phase = .unwinding ∧ y.cause = .congested ∧ y.causeHop = hop.toNat ∧ y.emergency = false)) ∧
    (∀ ds : List HopRecord, ds.length ≤ 16 → displayCodesOk ds = true →
      let f : PathFrame := ⟨key, n, .report ds⟩
      let complete := displayHolds ds x.path 1 x.path.length fun r =>
        r.dev.toNat ≤ 32767 && r.tnext.toNat ≤ 4000 && x.hops.any fun h =>
          h.hop == r.hop.toNat && h.budget == r.budget.toNat && h.limit == r.limit.toNat && h.count == r.count.toNat
      ((x.phase ≠ .measuring ∨ n.toNat ≠ x.stepNo) → strays (.report d key n ds) f) ∧
      (x.phase = .measuring → n.toNat = x.stepNo → complete = false →
        ∃ u, exec (.report d key n ds) s = .next u ∧ s.EmergencyAborts u j x .display 0 .none) ∧
      (x.phase = .measuring → n.toNat = x.stepNo → complete = true →
        ∃ u, exec (.report d key n ds) s = .next u ∧
          (x.ownRecord = none → u.job j = some { x with timer := none, silentRun := 0, display := some ds })))

/-- Sections 6.5, 8.3 to 8.6 (R115, R121, R133, R143 to R147): what a head does at its decision. It decides at the
REPORT that completes its display where it holds its own record, at the result that completes its own record where it
holds the display, and a LOCAL job at its own result. It learns from the records, plans, and carries out the row of the
decision table that applies: an emergency abort; a backoff, its four cases in order; a hold, counted, with MONITOR or
NO_ROOM at the third in a row; the commit; the next step, before which a pending suspend acts first and then the
step-number limit (the model's choice, log entry 18), and at a foreign gate the BUSY, the fortieth a CONGESTED. Hop
index 0 of MONITOR, NO_ROOM, STEP_LIMIT and CONGESTED at the own gate is log entry 19's. A closing PATH job discards the
REPORT, which is the model's choice (log entry 28). What a job learns and plans is what CorrectionFactorsLearn and
PlansAndDecisionsFollowTheTables say of `Job.afterCycle`. -/
def Obligations.DecisionsAreCarriedOut : Prop :=
  (∀ (s : State) (j : Nat) (x : Job) (ds : List HopRecord) (r : HopRecord), s.job j = some x → x.isPath = true →
    s.mode ≠ .inReset → (s.link x.egress).state ≠ .disabled → s.OwnersMatch → s.WorkHasItsPlace →
    s.GatesHeldByWatchers → 1 ≤ x.egress → x.egress ≤ 4 → x.slot < 96 → x.stepNo ≤ 255 → ds.length ≤ 16 →
    displayCodesOk ds = true →
    let report : Instr := .report x.egress x.key (BitVec.ofNat 8 x.stepNo) ds
    let complete := displayHolds ds x.path 1 x.path.length fun r =>
      r.dev.toNat ≤ 32767 && r.tnext.toNat ≤ 4000 && x.hops.any fun h =>
        h.hop == r.hop.toNat && h.budget == r.budget.toNat && h.limit == r.limit.toNat && h.count == r.count.toNat
    (x.closing = false → x.phase = .measuring → complete = true → x.ownRecord = some r →
      ∃ u, exec report s = .next u ∧ s.CarriesOut u j { x with silentRun := 0 } (r :: ds)) ∧
    (x.closing = true → ∃ u, exec report s = .next u ∧ u.jobs = s.jobs ∧ u.pa = s.pa ∧ u.cg = s.cg)) ∧
  (∀ (s : State) (p : Nat) (e : Participation) (m : Measurement) (x : Job), s.Between → p < 32 → s.OwnersMatch →
    s.GatesHeldByWatchers → s.entry p = some e → e.measurement = some m →
    m.deadline.length ≤ (s.now - m.deadline.start).toNat → e.role.isTransitOrTail = false →
    s.job e.key.job.toNat = some x → x.phase = .measuring → x.closing = false →
    let r := s.recordOf e m.att x.target .unmeasured 0 .unmeasured
    ∃ u, exec (.measurementDeadline p) s = .next u ∧
      (∀ ds, x.display = some ds → s.CarriesOut u e.key.job.toNat x (r :: ds)) ∧
      (x.isPath = false → x.display = none → s.CarriesOut u e.key.job.toNat x [r]) ∧
      (x.isPath = true → x.display = none → u.job e.key.job.toNat = some { x with ownRecord := some r } ∧ u.cg = s.cg))

/-! ## Timers -/

/-- Sections 5.5, 5.7 and 6.1 (R91, R96, R97, R104): at its expiry an orphan timer closes its entry, reported ORPHAN, or
makes a closing entry's outcome QUARANTINED; a KEEP timer hands a KEEP and starts again; a commit return record is
removed; a hold limit releases its gate with GATE_EXPIRED, and raises ALARM at a transit or tail, or aborts the head or
local job. A KEEP handed to the link starts the head's hold limit again (R104). A timer not reached changes nothing. The
model's choices: the source of the closing word of a transit that was never opened (log entry 28), hop index 0 of the
abort GATE_EXPIRED (log entry 19), and, of a head attenuation above 4095, the low 12 bits in GATE_EXPIRED (log entry
17). -/
def Obligations.PathTimersExpire : Prop :=
  (∀ (s : State) (p : Nat), s.Between → p < 32 →
    ((∀ x t, s.entry p = some x → x.orphanFrom = some t → (s.now - t).toNat < 10000) →
      exec (.orphanTimerExpiry p) s = .next s) ∧
    (∀ x t, s.entry p = some x → x.orphanFrom = some t → 10000 ≤ (s.now - t).toNat → x.egress ≤ 4 → x.slot < 96 →
      ∃ u, exec (.orphanTimerExpiry p) s = .next u ∧
        u = { s with shelf := u.shelf, pa.entries := u.pa.entries, gates := u.gates } ∧
        (∀ q, q ≠ p → u.entry q = s.entry q) ∧
        (x.closing = true → u.entry p = some { x with orphaned := true, orphanFrom := none } ∧ u.shelf = s.shelf) ∧
        (x.closing = false →
          u.entry p = some { x with
            orphaned := true, orphanFrom := none, closing := true, measurement := none, ownRecord := none
            heldReport := none } ∧
          u.shelf.Writes .a (cellOffset x.egress x.slot) (mkCell x.ingress 0 .block) (.closing p) ∧
          ∃ ev, Shelf.Submitted s.shelf u.shelf ev ∧ ev.kind = .orphan ∧ ev.key = some x.key ∧
            ev.egress = some x.egress ∧ ev.slot = some x.slot))) ∧
  (∀ (s : State) (j : Nat), s.Between → j < 8 →
    ((∀ x t, s.job j = some x → x.keepFrom = some t → (s.now - t).toNat < 2000) →
      exec (.keepTimerExpiry j) s = .next s) ∧
    (∀ x t, s.job j = some x → x.keepFrom = some t → 2000 ≤ (s.now - t).toNat → x.isPath = true →
      ∃ u, exec (.keepTimerExpiry j) s = .next u ∧
        u = { s with
          shelf := u.shelf, gates := u.gates, jobs := s.jobs.set j (some { x with keepFrom := some s.now })
          slc.links := u.slc.links } ∧
        s.Hands u x.egress ⟨x.key, 0, .keep⟩ ∧
        ∀ p e, x.entry = some p → s.entry p = some e → s.GateRestarted u p e)) ∧
  (∀ s : State, s.Between →
    ((∀ r, s.pa.returns.head? = some r → (s.now - r.created).toNat < 1050) → exec .commitReturnExpiry s = .next s) ∧
    (∀ r rest, s.pa.returns = r :: rest → 1050 ≤ (s.now - r.created).toNat →
      exec .commitReturnExpiry s = .next { s with pa.returns := rest })) ∧
  (∀ (s : State) (d : Nat) (dir : Dir), s.Between → 1 ≤ d → d ≤ 4 →
    ((∀ h, s.gate d dir = some h → (s.now - h.since).toNat < 8000) → exec (.gateHoldLimitExpiry d dir) s = .next s) ∧
    (∀ h y, s.gate d dir = some h → 8000 ≤ (s.now - h.since).toNat → s.entry h.holder = some y →
      ∃ u ev, exec (.gateHoldLimitExpiry d dir) s = .next u ∧ u.gate d dir = none ∧ u.cg = s.cg ∧
        Shelf.Submitted s.shelf u.shelf ev ∧ ev.kind = .gateExpired ∧ ev.egress = some d ∧ ev.key = some h.key ∧
        ev.value1 = packWord [⟨dir.code, 0, 1⟩, ⟨h.step, 8, 8⟩] ∧ ev.value2 = packWord [⟨h.att.code, 0, 12⟩] ∧
        (y.role.isTransitOrTail = true → u.pa = s.pa ∧ u.jobs = s.jobs ∧
          (y.closing = false → s.Hands u y.ingress ⟨y.key, 0, .alarm 10 (BitVec.ofNat 8 y.hop)⟩)) ∧
        (∀ x, y.role.isTransitOrTail = false → s.job y.key.job.toNat = some x → x.closing = false →
          x.phase ≠ .committing → s.EmergencyAborts u y.key.job.toNat x .gateExpired 0 .none)))

/-- Sections 6.4, 6.6, 6.7, 8.3, 8.4, 8.5, 8.6 and 8.7 (R111, R118, R119, R121, R144, R145, R148, R151, R152, R155): what
each window and timer of a job does when it is reached; a window or timer that is not running, or not reached, changes
nothing. A REPORT window's expiry backs off, with all of R145's cases. At the end of a retry delay, and of a wait before
the ignition was written, the job begins its step: a PATH job's INTENT, a LOCAL job's write, a gate held by another, step
number 255, a pending suspend. A measurement asked starts the hold limit of a held gate again (R104). The model's choices:
the order suspend, step-number limit, gate at a step's beginning (log entry 18), and hop index 0 of STEP_LIMIT and of what
an expired window decides (log entry 19). -/
def Obligations.JobTimersExpire : Prop :=
  ∀ (s : State) (j : Nat), s.Between → j < 8 →
    (∀ k : JobTimerKind,
      (∀ x t, s.job j = some x → x.timer = some t → t.kind = k → (s.now - t.timer.start).toNat < t.timer.length) →
      exec (k.expiry j) s = .next s) ∧
    ∀ x t, s.job j = some x → x.timer = some t → t.timer.length ≤ (s.now - t.timer.start).toNat →
      x.closing = false → x.egress ≤ 4 → x.slot < 96 →
      let n := x.path.length
      let runs (length : Nat) (k : JobTimerKind) : Option JobTimer := some ⟨k, ⟨s.now, length⟩⟩
      (t.kind = .confirmWindow → x.phase ≠ .committing →
        ∃ u, exec (.confirmWindowExpiry j) s = .next u ∧ s.EmergencyAborts u j x .pathSilent 0 .none) ∧
      (t.kind = .readyBusyWindow → x.phase ≠ .committing →
        (1 ≤ x.silentRun →
          ∃ u, exec (.readyBusyWindowExpiry j) s = .next u ∧ s.EmergencyAborts u j x .pathSilent 0 .none) ∧
        (x.silentRun = 0 → ∃ u y, exec (.readyBusyWindowExpiry j) s = .next u ∧ u.job j = some y ∧ u.cg = s.cg ∧
          y.silentRun = 1 ∧ y.phase = .waiting ∧ y.timer = runs (150 + 50 * j) .retry ∧
          (x.isPath = true → s.Hands u x.egress ⟨x.key, BitVec.ofNat 8 x.stepNo, .stepEnd 2⟩))) ∧
      (t.kind = .reportWindow → x.phase ≠ .committing →
        (1 ≤ x.silentRun →
          ∃ u, exec (.reportWindowExpiry j) s = .next u ∧ s.EmergencyAborts u j x .pathSilent 0 .none) ∧
        (x.silentRun = 0 → x.phase = .measuring → ∃ u, exec (.reportWindowExpiry j) s = .next u ∧ s.BacksOff u j x 0) ∧
        (∀ a rest, x.silentRun = 0 → x.backoffs < 3 → x.stepNo < 255 → x.stack = .hdb a :: rest →
          ∃ u y, exec (.reportWindowExpiry j) s = .next u ∧ u.job j = some y ∧ u.cg = s.cg ∧ y.att = .hdb a ∧
            y.stack = rest ∧ y.backoffs = x.backoffs + 1 ∧ y.stepNo = x.stepNo + 1 ∧ y.phase = .settling ∧
            y.timer = runs x.profile.settle .settle ∧ y.hops = x.hops ∧ y.ownRecord = none ∧ y.display = none ∧
            y.unmeasuredRun = 0 ∧ y.noRoomRun = 0 ∧ y.silentRun = 1 ∧
            y.ceiling = some (let half := max x.profile.minStep (x.lastDelta.getD 0 / 2)
              match x.ceiling with
              | none => half
              | some c => min c half) ∧
            u.shelf.Writes .c (cellOffset x.egress x.slot) (mkCell x.source x.pilot (.hdb a)) (.step x.key))) ∧
      (t.kind = .committedWindow →
        ∃ u ev, exec (.committedWindowExpiry j) s = .next u ∧ u.job j = none ∧ u.cg = s.cg ∧
          Shelf.Submitted s.shelf u.shelf ev ∧ ev.kind = .jobEnd ∧ ev.key = some x.key ∧
          ev.value1.toNat / 2 ^ 24 % 8 = 2) ∧
      (∀ p e, x.entry = some p → s.entry p = some e →
        (t.kind = .settle → ∃ u y m, exec (.settleTimerExpiry j) s = .next u ∧ u.job j = some y ∧ u.cg = s.cg ∧
          y.phase = .measuring ∧
          y.timer = (if x.isPath = true then runs (3 * s.period + 250 + 50 * n) .reportWindow else none) ∧
          u.entry p = some { e with measurement := some m } ∧ m.att = x.att ∧ m.devMark = s.sweep e.watched.1 ∧
          m.contMark = s.sweep e.continuity.1 ∧ m.deadline = ⟨s.now, 3 * s.period⟩ ∧ m.dev = none ∧ m.cont = none ∧
          s.GateRestarted u p e ∧ (x.isPath = true → s.Hands u x.egress ⟨x.key, BitVec.ofNat 8 x.stepNo,
            .measure (BitVec.ofNat 16 x.att.code) (BitVec.ofNat 16 x.target)⟩)) ∧
        (t.kind = .retry → x.phase = .waiting → ∃ u, exec (.retryDelayEnd j) s = .next u ∧ s.BeginsStep u j x) ∧
        (t.kind = .wait → x.phase = .waiting → x.att = .block →
          ∃ u, exec (.remeasureWaitEnd j) s = .next u ∧ s.BeginsStep u j x) ∧
        (t.kind = .retry → x.suspendPending = true →
          ∃ u y, exec (.retryDelayEnd j) s = .next u ∧ u.job j = some y ∧ y.phase = .suspended ∧ y.timer = none ∧
            y.suspendPending = false ∧ y.plan = none) ∧
        (t.kind = .retry → x.suspendPending = false → x.stepNo < 255 → x.isPath = true → 1 ≤ e.watched.1 →
          e.watched.1 ≤ 4 → (∀ g, s.gate e.watched.1 e.watched.2 = some g → g.holder = p) →
          ∃ u y, exec (.retryDelayEnd j) s = .next u ∧ u.job j = some y ∧ y.phase = .gating ∧
            y.timer = runs (250 + 50 * n) .readyBusyWindow ∧
            u.gate e.watched.1 e.watched.2 = some ⟨p, e.key, s.now, x.stepNo + 1, x.att⟩ ∧
            s.Hands u x.egress ⟨x.key, BitVec.ofNat 8 (x.stepNo + 1),
              .intent (BitVec.ofNat 16 x.att.code) (BitVec.ofNat 16 x.target)⟩) ∧
        (t.kind = .wait → x.suspendPending = true →
          ∃ u y, exec (.remeasureWaitEnd j) s = .next u ∧ u.job j = some y ∧ y.phase = .suspended ∧ y.timer = none) ∧
        (t.kind = .wait → x.suspendPending = false → x.att ≠ .block →
          ∃ u y m, exec (.remeasureWaitEnd j) s = .next u ∧ u.job j = some y ∧ y.phase = .measuring ∧
            u.entry p = some { e with measurement := some m } ∧ s.GateRestarted u p e) ∧
        (t.kind = .unwind → (x.stack = [] ∨ x.stack.head? = some .block) → x.kind ≠ .raise → e.egress ≤ 4 → e.slot < 96 →
          ∃ u y, exec (.unwindTimerExpiry j) s = .next u ∧ u.job j = some y ∧ u.cg = s.cg ∧ y.phase = .unwinding ∧
            y.closing = true ∧ y.att = .block ∧ y.stack = [] ∧ y.timer = none ∧
            u.shelf.Writes .a (cellOffset e.egress e.slot) (mkCell x.source x.lastPilot .block) (.closing p) ∧
            (x.isPath = true →
              s.Hands u x.egress ⟨x.key, BitVec.ofNat 8 x.stepNo, .abort (BitVec.ofNat 8 x.cause.code)⟩)) ∧
        (∀ a, t.kind = .unwind → x.stack = [] → x.kind = .raise → x.startAtt = some a →
          ∃ u y, exec (.unwindTimerExpiry j) s = .next u ∧ u.job j = some y ∧ y.closing = true ∧ y.att = .hdb a ∧
            u.entry p = none ∧ u.grid x.egress x.slot = ⟨.inService, none,
              if x.egress = 0 then none else (s.reading x.egress .outward x.slot).level, false, false⟩ ∧
            u.shelf.Writes .c (cellOffset x.egress x.slot) (mkCell x.source 0 (.hdb a)) (.restore x.key))) ∧
      (∀ a rest, t.kind = .unwind → x.stack = .hdb a :: rest →
        ∃ u y, exec (.unwindTimerExpiry j) s = .next u ∧ u.job j = some y ∧ u.cg = s.cg ∧ u.pa = s.pa ∧ y.att = .hdb a ∧
          y.stack = rest ∧ y.phase = x.phase ∧ y.stepNo = x.stepNo ∧ y.timer = runs x.profile.settle .unwind ∧
          u.shelf.Writes .c (cellOffset x.egress x.slot) (mkCell x.source x.pilot (.hdb a)) (.step x.key))

/-! ## Memory's answers -/

/-- Sections 1.11, 3.2, 3.3, 5.3, 8.2, 8.5, 8.6, 10.1 and 10.5 (R22, R46, R47, R87, R142, R147, R152, R174, R179): what
the answer to each part write does. A closing BLOCK write's answer frees its participation and leaves the entry FREE, or
QUARANTINED on ERROR or after an orphan expiry, and ends an aborting job. Other cell writes' OK changes nothing but that a
LOCAL job's commit and a restore end their jobs; their ERROR is reported SETPOINT_FAULT and aborts or ends the job, or
alarms the path. A record is published at its eighth OK answer, and lost if any was ERROR. Header and status writes are
not repeated. Where the write replaced another while it was pending (R16), the answer, OK or ERROR, is that of the other's
requester too: a commit, a restore and a closing write act as if their own had been so answered; for a step, backoff,
unwind or route write nothing more follows, its error being that of the write in its place (the model's choice, log entry
11). -/
def Obligations.WriteAnswersActByPurpose : Prop :=
  (∀ (s : State) (r : PartReq) (ok : Bool), s.Between → s.shelf.bus.port = .part r → r.replaced = [] →
    let freed : State := { s with shelf.bus := { s.shelf.bus with port := .idle } }
    let faulted (u : State) (key : JobKey) : Prop := ∃ ev, Shelf.Submitted s.shelf u.shelf ev ∧
      ev.kind = .setpointFault ∧ ev.key = some key ∧ ev.egress = some (r.offset / 4 / 96) ∧
      ev.slot = some (r.offset / 4 % 96)
    let ended (u : State) (x : Job) (outcome left : Nat) : Prop := u.job x.key.job.toNat = none ∧
      ∃ ev, Shelf.Submitted s.shelf u.shelf ev ∧ ev.kind = .jobEnd ∧ ev.key = some x.key ∧ ev.tag = x.tag ∧
        ev.value1.toNat / 2 ^ 24 % 8 = outcome ∧ ev.value1.toNat / 2 ^ 28 % 8 = left
    (∀ p x, r.purpose = .closing p → s.entry p = some x → x.egress ≤ 4 → x.slot < 96 →
      ∃ u, exec (.blockWriteAnswer ok) s = .next u ∧ u.entry p = none ∧ (∀ q, q ≠ p → u.entry q = s.entry q) ∧
        (∀ e k, e ≤ 4 → k < 96 → (e, k) ≠ (x.egress, x.slot) → u.grid e k = s.grid e k) ∧
        (ok = true → x.orphaned = false → u.grid x.egress x.slot = GridEntry.freeEntry) ∧
        (ok = false ∨ x.orphaned = true → u.grid x.egress x.slot = ⟨.quarantined, none, none, false, false⟩ ∧
          ∃ ev, Shelf.Submitted s.shelf u.shelf ev ∧ ev.kind = .quarantined ∧ ev.key = some x.key ∧
            ev.cause = (if x.orphaned = true then 44 else 11) ∧
            ev.value1 = BitVec.ofNat 32 (s.grid x.egress x.slot).state.code) ∧
        (x.role.isTransitOrTail = true → u.jobs = s.jobs) ∧
        (∀ y, x.role.isTransitOrTail = false → s.job x.key.job.toNat = some y → y.key = x.key →
          ended u y (if y.emergency = true then 5 else 6) (if ok = true ∧ x.orphaned = false then 0 else 4))) ∧
    (∀ key, r.purpose = .step key →
      (ok = true → exec (.stepWriteAnswer ok) s = .next freed) ∧
      (ok = false → ∃ u, exec (.stepWriteAnswer ok) s = .next u ∧ faulted u key ∧ u.cg = s.cg ∧
        ∀ x, s.job key.job.toNat = some x → x.key = key → x.closing = false → x.phase ≠ .committing →
          s.EmergencyAborts u key.job.toNat x .setpointFault 0 .none)) ∧
    (∀ p key, r.purpose = .route p key →
      (ok = true → exec (.routeWriteAnswer ok) s = .next freed) ∧
      (ok = false → ∃ u, exec (.routeWriteAnswer ok) s = .next u ∧ u.pa = s.pa ∧ u.cg = s.cg ∧ u.jobs = s.jobs ∧
        ∀ x, s.entry p = some x → x.key = key →
          (x.closing = true → u.shelf.rw = s.shelf.rw) ∧
          (x.closing = false → faulted u key ∧ s.Hands u x.ingress ⟨key, 0, .alarm 11 (BitVec.ofNat 8 x.hop)⟩ ∧
            s.GateRestarted u p x))) ∧
    (∀ key, r.purpose = .commit key → ∃ u, exec (.commitWriteAnswer ok) s = .next u ∧ u.cg = s.cg ∧ u.pa = s.pa ∧
      (ok = false → faulted u key) ∧
      ∀ x, s.job key.job.toNat = some x → x.key = key →
        (x.phase ≠ .committing → u.jobs = s.jobs) ∧
        (x.phase = .committing → ok = false → ended u x 3 3) ∧
        (x.phase = .committing → ok = true → x.isPath = true → u = freed) ∧
        (x.phase = .committing → ok = true → x.isPath = false → ended u x 1 3)) ∧
    (∀ key, r.purpose = .restore key → ∃ u, exec (.restoreWriteAnswer ok) s = .next u ∧ u.cg = s.cg ∧ u.pa = s.pa ∧
      (ok = false → faulted u key) ∧
      ∀ x, s.job key.job.toNat = some x → x.key = key →
        (x.entry = none → ended u x (if x.emergency = true then 5 else 6) 3) ∧ (x.entry ≠ none → u.jobs = s.jobs)) ∧
    (∀ f, r.purpose = .record → s.shelf.rw.flight = some f →
      ∃ u, exec (.reportRecordWriteAnswer ok) s = .next u ∧ u = { s with shelf := u.shelf } ∧
        (2 ≤ f.left → u.shelf.rw =
          { s.shelf.rw with flight := some { f with left := f.left - 1, failed := f.failed || !ok } }) ∧
        (f.left ≤ 1 → f.failed = false → ok = true → u.shelf.rw.producer = (s.shelf.rw.producer + 1) % 128) ∧
        (f.left ≤ 1 → (f.failed = true ∨ ok = false) → u.shelf.rw.producer = s.shelf.rw.producer ∧
          (s.shelf.rw.drops < u.shelf.rw.drops ∨ u.shelf.rw.drops = 255))) ∧
    (r.purpose = .header → exec (.reportHeaderWriteAnswer ok) s = .next freed) ∧
    (r.purpose = .status → exec (.statusWriteAnswer ok) s = .next freed)) ∧
  (∀ (s : State) (r : PartReq) (ok : Bool) (k : JobKey), s.Between → s.shelf.bus.port = .part r →
    (r.purpose = .step k ∨ ∃ p, p < 32 ∧ r.purpose = .closing p ∧ ∀ e, s.entry p = some e → e.key = k) →
    let c : Instr := if r.purpose = .step k then .stepWriteAnswer ok else .blockWriteAnswer ok
    let ended (u : State) (x : Job) (outcome : Nat) : Prop := u.job x.key.job.toNat = none ∧
      ∃ ev, Shelf.Submitted s.shelf u.shelf ev ∧ ev.kind = .jobEnd ∧ ev.key = some x.key ∧ ev.tag = x.tag ∧
        ev.value1.toNat / 2 ^ 24 % 8 = outcome ∧ ev.value1.toNat / 2 ^ 28 % 8 = 3
    (∀ key x, r.replaced = [.commit key] → key.job ≠ k.job → s.job key.job.toNat = some x → x.key = key →
      ∃ u, exec c s = .next u ∧
        (x.phase ≠ .committing → u.job key.job.toNat = some x) ∧
        (x.phase = .committing → ok = false → ended u x 3) ∧
        (x.phase = .committing → ok = true → x.isPath = true → u.job key.job.toNat = some x) ∧
        (x.phase = .committing → ok = true → x.isPath = false → ended u x 1)) ∧
    (∀ key x, r.replaced = [.restore key] → key.job ≠ k.job → s.job key.job.toNat = some x → x.key = key →
      x.entry = none → ∃ u, exec c s = .next u ∧ ended u x (if x.emergency = true then 5 else 6)) ∧
    (∀ q x, r.replaced = [.closing q] → r.purpose = .step k → s.entry q = some x → x.role.isTransitOrTail = true →
      x.egress ≤ 4 → x.slot < 96 → (∀ y, s.job k.job.toNat = some y → y.entry ≠ some q) →
      ∃ u, exec c s = .next u ∧ u.entry q = none ∧
        u.grid x.egress x.slot = if ok = true ∧ x.orphaned = false then GridEntry.freeEntry
          else ⟨.quarantined, none, none, false, false⟩) ∧
    (∀ w, (∃ key, w = .step key) ∨ (∃ q key, w = .route q key) → r.replaced = [w] →
      exec c s = exec c { s with shelf.bus := { s.shelf.bus with port := .part { r with replaced := [] } } }))

/-! ## The arithmetic of a step -/

/-- R134, with R133 and R135 of section 7.4: the correction factor of a hop after a cycle that measured a planned step;
a hop whose result is not OK keeps its factor, and so does every hop of a cycle that measured none. What a job learns at
its decision (`Job.afterCycle`): its array keeps its length, and an element whose hop index one record of the cycle
alone bears takes the deviation, both results and T_next of that record, and its factor, learned by last Δ where the
cycle measured a planned step and unchanged where it measured none; the rest of the element is as it was. -/
def Obligations.CorrectionFactorsLearn : Prop :=
  (∀ (h : HopElem) (delta : Nat) (r : HopRecord) (used : Nat), h.used = some used → 1000 ≤ h.factor →
    let rise : Int := (r.dev.toNat : Int) - h.dev
    let predicted := (delta * used + 999) / 1000
    let ok := devResultOf r = .ok
    (ok → 0 < predicted → (predicted : Int) < rise →
      ((h.learn (some delta) r).factor : Int) = min 4000 (-(-(h.factor * rise) / predicted))) ∧
    (ok → ¬ (0 < predicted ∧ (predicted : Int) < rise) →
      ((h.learn (some delta) r).factor : Int) = max 1000 (h.factor - ((h.factor : Int) - 1000) / 4)) ∧
    (¬ ok → (h.learn (some delta) r).factor = h.factor) ∧ (h.learn none r).factor = h.factor) ∧
  ∀ (x : Job) (rs : List HopRecord), (x.afterCycle rs).hops.length = x.hops.length ∧
    ∀ (i : Nat) (h : HopElem) (r : HopRecord), x.hops[i]? = some h → r ∈ rs → r.hop.toNat = h.hop →
      (∀ q ∈ rs, q.hop.toNat = h.hop → q = r) →
      ∃ e, (x.afterCycle rs).hops[i]? = some e ∧
        e = { h with
          dev := r.dev.toNat, devResult := devResultOf r, contResult := e.contResult, tnext := r.tnext.toNat
          factor := e.factor } ∧
        (∀ c, contResultOf r = some c → e.contResult = c) ∧
        (x.cycleMeasuresStep = true → e.factor = (h.learn x.lastDelta r).factor) ∧
        (x.cycleMeasuresStep = false → e.factor = h.factor)

/-- Sections 7.3, 7.4, 8.3 and 8.9 (R128 to R131, R133, R143, R160): a plan's step is the smallest of the hops'
allowances, the cap and the remaining distance, and no hop's predicted rise passes its room; a STEP is at least 1 and at
most the max step. The rows of the decision table are read in order, and the first that applies decides, with the lowest
hop that carries it. After a cycle (`Job.afterCycle`) the job's plan is the one that the array it has learned gives, and
its limiting hop the first of those of the smallest allowance; the cycle's records, its mark of a planned step and its
timer are gone, and nothing else of it but the array has changed. The results of a record are read by codes whose order
is the model's choice (log entry 28). -/
def Obligations.PlansAndDecisionsFollowTheTables : Prop :=
  let sens (h : HopElem) := min 4000 ((h.tnext * h.factor + 999) / 1000)
  let room (h : HopElem) : Int := (h.budget : Int) - h.dev
  let allowance (h : HopElem) : Nat :=
    if h.devResult = .unmeasured then 0
    else if sens h = 0 then 65535
    else if room h ≤ 0 then 0
    else min 65535 ((room h).toNat * 1000 / sens h)
  (∀ x : Job,
    let pl := x.makePlan
    let base := if x.steps < x.profile.leadIn then x.profile.minStep else x.profile.maxStep
    let rem := match x.att with
      | .hdb a => a - x.target
      | .block => 2500 - x.target
    pl.sens = x.hops.map sens ∧
    (x.ceiling = none → pl.cap = base) ∧ (∀ c, x.ceiling = some c → pl.cap = min base c) ∧
    (∀ h ∈ x.hops, pl.delta ≤ allowance h) ∧ pl.delta ≤ pl.cap ∧ pl.delta ≤ rem ∧ pl.delta ≤ 65535 ∧
    (pl.delta = pl.cap ∨ pl.delta = rem ∨ pl.delta = 65535 ∨ ∃ h ∈ x.hops, pl.delta = allowance h) ∧
    (∀ h ∈ x.hops, h.dev ≤ h.budget → ((pl.delta * sens h : Nat) : Int) ≤ room h * 1000) ∧
    (rem = 0 → pl.outcome = .commitTest) ∧
    (rem ≠ 0 → (x.profile.minStep ≤ pl.delta ∨ pl.delta = rem) → pl.outcome = .step) ∧
    (rem ≠ 0 → pl.delta < x.profile.minStep → pl.delta ≠ rem → pl.outcome = .noRoom) ∧
    (x.profile.InRange → pl.outcome = .step → 1 ≤ pl.delta ∧ pl.delta ≤ x.profile.maxStep)) ∧
  (∀ x : Job,
    let first (p : HopElem → Bool) (h : Nat) : Prop := ∃ before e after, x.hops = before ++ e :: after ∧ p e = true ∧
      e.hop = h ∧ ∀ b ∈ before, p b = false
    let has (p : HopElem → Bool) : Prop := ∃ e ∈ x.hops, p e = true
    let loss (e : HopElem) := decide (e.devResult = .loss)
    let high (e : HopElem) := decide (e.devResult = .overload)
    let hard (e : HopElem) := decide (e.limit < e.dev)
    let stray (e : HopElem) := decide (e.contResult = .misroute)
    let dark (e : HopElem) := decide (e.contResult = .noLight)
    let soft (e : HopElem) := decide (e.budget < e.dev)
    let blind (e : HopElem) := decide (e.devResult = .unmeasured ∨ e.contResult = .unmeasured)
    let row1 := has loss ∨ has high ∨ has hard
    let row2 := has stray ∨ has dark
    (∀ h, first loss h → x.decision = .emergency .loss h) ∧
    (∀ h, ¬ has loss → first high h → x.decision = .emergency .overload h) ∧
    (∀ h, ¬ has loss → ¬ has high → first hard h → x.decision = .emergency .excursion h) ∧
    (∀ h, ¬ row1 → first stray h → x.decision = .emergency .misroute h) ∧
    (∀ h, ¬ row1 → ¬ has stray → first dark h → x.decision = .emergency .noLight h) ∧
    (∀ h, ¬ row1 → ¬ row2 → first soft h → x.decision = .backoff h) ∧
    (¬ row1 → ¬ row2 → ¬ has soft → has blind → x.decision = .holdUnmeasured) ∧
    ∀ pl, x.plan = some pl → ¬ row1 → ¬ row2 → ¬ has soft → ¬ has blind →
      (pl.outcome = .commitTest → x.decision = .commit) ∧ (pl.outcome = .noRoom → x.decision = .holdNoRoom) ∧
      (pl.outcome = .step → x.decision = .continue)) ∧
  (∀ (x : Job) (rs : List HopRecord),
    let y := x.afterCycle rs
    y = { x with
      hops := y.hops, plan := some y.makePlan, limiting := y.limiting, cycleMeasuresStep := false, ownRecord := none
      display := none, timer := none } ∧
    (y.hops ≠ [] → ∃ before e after, y.hops = before ++ e :: after ∧ e.hop = y.limiting ∧
      (∀ b ∈ before, allowance e < allowance b) ∧ ∀ a ∈ after, allowance e ≤ allowance a)) ∧
  ∀ r : HopRecord,
    (r.results.toNat % 4 = 0 → devResultOf r = .ok) ∧ (r.results.toNat % 4 = 1 → devResultOf r = .loss) ∧
    (r.results.toNat % 4 = 2 → devResultOf r = .overload) ∧ (r.results.toNat % 4 = 3 → devResultOf r = .unmeasured) ∧
    contResultOf r =
      [ContResult.lit, .notYet, .noLight, .misroute, .unmeasured][r.results.toNat / 16 % 8]?

end
end

