-- ==== Sys2Proof/Laws/State.lean ====
section
/-! SUPPORT. The small lemmas of State: what each replacement of a part of it leaves as it was, field by field and reader by
reader, and what is read back from where it was written. Later proofs cite these and never unfold a record update. -/

namespace Sys2Proof

/-! ## Tables -/

theorem Table.ext_cells {n : Nat} {α : Type} {t u : Table n α} (h : t.cells = u.cells) : t = u := by
  cases t; cases u; cases h; rfl

@[simp] theorem Table.get_fill {n : Nat} {α : Type} [Inhabited α] (a : α) (i : Nat) (h : i < n) :
    (Table.fill n a).get i = a := by
  simp [Table.get, Table.fill, List.getD_eq_getElem?_getD, h]

theorem Table.get_of_le {n : Nat} {α : Type} [Inhabited α] (t : Table n α) (i : Nat) (h : n ≤ i) :
    t.get i = default := by
  have hi : t.cells.length ≤ i := by rw [t.size_eq]; exact h
  simp [Table.get, List.getD_eq_getElem?_getD, List.getElem?_eq_none hi]

@[simp] theorem Table.get_set_self {n : Nat} {α : Type} [Inhabited α] (t : Table n α) (i : Nat) (a : α) (h : i < n) :
    (t.set i a).get i = a := by
  simp [Table.get, Table.set, List.getD_eq_getElem?_getD, t.size_eq, h]

theorem Table.get_set_ne {n : Nat} {α : Type} [Inhabited α] (t : Table n α) (i j : Nat) (a : α) (h : i ≠ j) :
    (t.set i a).get j = t.get j := by
  simp [Table.get, Table.set, List.getD_eq_getElem?_getD, List.getElem?_set_ne h]

theorem Table.set_of_le {n : Nat} {α : Type} (t : Table n α) (i : Nat) (a : α) (h : n ≤ i) : t.set i a = t :=
  have hi : t.cells.length ≤ i := by rw [t.size_eq]; exact h
  Table.ext_cells (List.set_eq_of_length_le hi)

/-- Reading a table after a write, at any place of it. -/
theorem Table.get_set {n : Nat} {α : Type} [Inhabited α] (t : Table n α) (i j : Nat) (a : α) (h : j < n) :
    (t.set i a).get j = if i = j then a else t.get j := by
  split
  · subst i; exact t.get_set_self j a h
  · exact t.get_set_ne i j a ‹_›

@[simp] theorem Table.get_mapIdx {n : Nat} {α : Type} [Inhabited α] (t : Table n α) (f : Nat → α → α) (i : Nat)
    (h : i < n) : (t.mapIdx f).get i = f i (t.get i) := by
  have hi : i < t.cells.length := by rw [t.size_eq]; exact h
  simp [Table.get, Table.mapIdx, List.getD_eq_getElem?_getD, h, hi]

/-- A property of every place of a table is one of its cells. -/
theorem Table.forall_get {n : Nat} {α : Type} [Inhabited α] (t : Table n α) (P : α → Prop) (hd : P default)
    (h : ∀ a ∈ t.cells, P a) (i : Nat) : P (t.get i) := by
  unfold Table.get
  rcases Nat.lt_or_ge i t.cells.length with hi | hi
  · rw [List.getD_eq_getElem?_getD, List.getElem?_eq_getElem hi]
    exact h _ (List.getElem_mem hi)
  · rw [List.getD_eq_getElem?_getD, List.getElem?_eq_none hi]
    exact hd

end Sys2Proof

namespace Sys2Proof.Machine

variable (s : State)

/-! ## `setGrid` -/

@[simp] theorem State.setGrid_pending (e k : Nat) (g : GridEntry) : (s.setGrid e k g).pending = s.pending := rfl
@[simp] theorem State.setGrid_mode (e k : Nat) (g : GridEntry) : (s.setGrid e k g).mode = s.mode := rfl
@[simp] theorem State.setGrid_lastReset (e k : Nat) (g : GridEntry) : (s.setGrid e k g).lastReset = s.lastReset := rfl
@[simp] theorem State.setGrid_clock (e k : Nat) (g : GridEntry) : (s.setGrid e k g).clock = s.clock := rfl
@[simp] theorem State.setGrid_shelf (e k : Nat) (g : GridEntry) : (s.setGrid e k g).shelf = s.shelf := rfl
@[simp] theorem State.setGrid_msu (e k : Nat) (g : GridEntry) : (s.setGrid e k g).msu = s.msu := rfl
@[simp] theorem State.setGrid_ord (e k : Nat) (g : GridEntry) : (s.setGrid e k g).ord = s.ord := rfl
@[simp] theorem State.setGrid_cfg (e k : Nat) (g : GridEntry) : (s.setGrid e k g).cfg = s.cfg := rfl
@[simp] theorem State.setGrid_pa (e k : Nat) (g : GridEntry) : (s.setGrid e k g).pa = s.pa := rfl
@[simp] theorem State.setGrid_gates (e k : Nat) (g : GridEntry) : (s.setGrid e k g).gates = s.gates := rfl
@[simp] theorem State.setGrid_jobs (e k : Nat) (g : GridEntry) : (s.setGrid e k g).jobs = s.jobs := rfl
@[simp] theorem State.setGrid_slc (e k : Nat) (g : GridEntry) : (s.setGrid e k g).slc = s.slc := rfl
@[simp] theorem State.setGrid_adoption (e k : Nat) (g : GridEntry) : (s.setGrid e k g).adoption = s.adoption := rfl
@[simp] theorem State.setGrid_sent (e k : Nat) (g : GridEntry) : (s.setGrid e k g).sent = s.sent := rfl
@[simp] theorem State.setGrid_marks (e k : Nat) (g : GridEntry) : (s.setGrid e k g).marks = s.marks := rfl
@[simp] theorem State.setGrid_cg_settlements (e k : Nat) (g : GridEntry) :
    (s.setGrid e k g).cg.settlements = s.cg.settlements := rfl
@[simp] theorem State.setGrid_cg_watches (e k : Nat) (g : GridEntry) :
    (s.setGrid e k g).cg.watches = s.cg.watches := rfl
@[simp] theorem State.setGrid_cg_intakes (e k : Nat) (g : GridEntry) :
    (s.setGrid e k g).cg.intakes = s.cg.intakes := rfl
@[simp] theorem State.setGrid_settlement (e k : Nat) (g : GridEntry) (e' k' : Nat) :
    (s.setGrid e k g).settlement e' k' = s.settlement e' k' := rfl
@[simp] theorem State.setGrid_snap (e k : Nat) (g : GridEntry) (d' : Nat) (dir' : Dir) (k' : Nat) :
    (s.setGrid e k g).snap d' dir' k' = s.snap d' dir' k' := rfl
@[simp] theorem State.setGrid_sweep (e k : Nat) (g : GridEntry) (d' : Nat) :
    (s.setGrid e k g).sweep d' = s.sweep d' := rfl
@[simp] theorem State.setGrid_entry (e k : Nat) (g : GridEntry) (p' : Nat) :
    (s.setGrid e k g).entry p' = s.entry p' := rfl
@[simp] theorem State.setGrid_job (e k : Nat) (g : GridEntry) (j' : Nat) : (s.setGrid e k g).job j' = s.job j' := rfl
@[simp] theorem State.setGrid_gate (e k : Nat) (g : GridEntry) (d' : Nat) (dir' : Dir) :
    (s.setGrid e k g).gate d' dir' = s.gate d' dir' := rfl
@[simp] theorem State.setGrid_link (e k : Nat) (g : GridEntry) (d' : Nat) : (s.setGrid e k g).link d' = s.link d' := rfl
@[simp] theorem State.setGrid_watch (e k : Nat) (g : GridEntry) (d' : Nat) :
    (s.setGrid e k g).watch d' = s.watch d' := rfl
@[simp] theorem State.setGrid_inIntake (e k : Nat) (g : GridEntry) (d' : Nat) :
    (s.setGrid e k g).inIntake d' = s.inIntake d' := rfl
@[simp] theorem State.setGrid_now (e k : Nat) (g : GridEntry) : (s.setGrid e k g).now = s.now := rfl
@[simp] theorem State.setGrid_degree (e k : Nat) (g : GridEntry) (d' : Nat) :
    (s.setGrid e k g).degree d' = s.degree d' := rfl
@[simp] theorem State.setGrid_period (e k : Nat) (g : GridEntry) : (s.setGrid e k g).period = s.period := rfl
@[simp] theorem State.setGrid_isEquipped (e k : Nat) (g : GridEntry) (d' : Nat) :
    (s.setGrid e k g).isEquipped d' = s.isEquipped d' := rfl
@[simp] theorem State.setGrid_governed (e k : Nat) (g : GridEntry) (e' : Nat) :
    (s.setGrid e k g).governed e' = s.governed e' := rfl

/-! ## `setSettlement` -/

@[simp] theorem State.setSettlement_pending (e k : Nat) (x : Settlement) :
    (s.setSettlement e k x).pending = s.pending := rfl
@[simp] theorem State.setSettlement_mode (e k : Nat) (x : Settlement) : (s.setSettlement e k x).mode = s.mode := rfl
@[simp] theorem State.setSettlement_lastReset (e k : Nat) (x : Settlement) :
    (s.setSettlement e k x).lastReset = s.lastReset := rfl
@[simp] theorem State.setSettlement_clock (e k : Nat) (x : Settlement) : (s.setSettlement e k x).clock = s.clock := rfl
@[simp] theorem State.setSettlement_shelf (e k : Nat) (x : Settlement) : (s.setSettlement e k x).shelf = s.shelf := rfl
@[simp] theorem State.setSettlement_msu (e k : Nat) (x : Settlement) : (s.setSettlement e k x).msu = s.msu := rfl
@[simp] theorem State.setSettlement_ord (e k : Nat) (x : Settlement) : (s.setSettlement e k x).ord = s.ord := rfl
@[simp] theorem State.setSettlement_cfg (e k : Nat) (x : Settlement) : (s.setSettlement e k x).cfg = s.cfg := rfl
@[simp] theorem State.setSettlement_pa (e k : Nat) (x : Settlement) : (s.setSettlement e k x).pa = s.pa := rfl
@[simp] theorem State.setSettlement_gates (e k : Nat) (x : Settlement) : (s.setSettlement e k x).gates = s.gates := rfl
@[simp] theorem State.setSettlement_jobs (e k : Nat) (x : Settlement) : (s.setSettlement e k x).jobs = s.jobs := rfl
@[simp] theorem State.setSettlement_slc (e k : Nat) (x : Settlement) : (s.setSettlement e k x).slc = s.slc := rfl
@[simp] theorem State.setSettlement_adoption (e k : Nat) (x : Settlement) :
    (s.setSettlement e k x).adoption = s.adoption := rfl
@[simp] theorem State.setSettlement_sent (e k : Nat) (x : Settlement) : (s.setSettlement e k x).sent = s.sent := rfl
@[simp] theorem State.setSettlement_marks (e k : Nat) (x : Settlement) : (s.setSettlement e k x).marks = s.marks := rfl
@[simp] theorem State.setSettlement_cg_entries (e k : Nat) (x : Settlement) :
    (s.setSettlement e k x).cg.entries = s.cg.entries := rfl
@[simp] theorem State.setSettlement_cg_watches (e k : Nat) (x : Settlement) :
    (s.setSettlement e k x).cg.watches = s.cg.watches := rfl
@[simp] theorem State.setSettlement_cg_intakes (e k : Nat) (x : Settlement) :
    (s.setSettlement e k x).cg.intakes = s.cg.intakes := rfl
@[simp] theorem State.setSettlement_grid (e k : Nat) (x : Settlement) (e' k' : Nat) :
    (s.setSettlement e k x).grid e' k' = s.grid e' k' := rfl
@[simp] theorem State.setSettlement_snap (e k : Nat) (x : Settlement) (d' : Nat) (dir' : Dir) (k' : Nat) :
    (s.setSettlement e k x).snap d' dir' k' = s.snap d' dir' k' := rfl
@[simp] theorem State.setSettlement_sweep (e k : Nat) (x : Settlement) (d' : Nat) :
    (s.setSettlement e k x).sweep d' = s.sweep d' := rfl
@[simp] theorem State.setSettlement_entry (e k : Nat) (x : Settlement) (p' : Nat) :
    (s.setSettlement e k x).entry p' = s.entry p' := rfl
@[simp] theorem State.setSettlement_job (e k : Nat) (x : Settlement) (j' : Nat) :
    (s.setSettlement e k x).job j' = s.job j' := rfl
@[simp] theorem State.setSettlement_gate (e k : Nat) (x : Settlement) (d' : Nat) (dir' : Dir) :
    (s.setSettlement e k x).gate d' dir' = s.gate d' dir' := rfl
@[simp] theorem State.setSettlement_link (e k : Nat) (x : Settlement) (d' : Nat) :
    (s.setSettlement e k x).link d' = s.link d' := rfl
@[simp] theorem State.setSettlement_watch (e k : Nat) (x : Settlement) (d' : Nat) :
    (s.setSettlement e k x).watch d' = s.watch d' := rfl
@[simp] theorem State.setSettlement_inIntake (e k : Nat) (x : Settlement) (d' : Nat) :
    (s.setSettlement e k x).inIntake d' = s.inIntake d' := rfl
@[simp] theorem State.setSettlement_now (e k : Nat) (x : Settlement) : (s.setSettlement e k x).now = s.now := rfl
@[simp] theorem State.setSettlement_degree (e k : Nat) (x : Settlement) (d' : Nat) :
    (s.setSettlement e k x).degree d' = s.degree d' := rfl
@[simp] theorem State.setSettlement_period (e k : Nat) (x : Settlement) :
    (s.setSettlement e k x).period = s.period := rfl
@[simp] theorem State.setSettlement_isEquipped (e k : Nat) (x : Settlement) (d' : Nat) :
    (s.setSettlement e k x).isEquipped d' = s.isEquipped d' := rfl
@[simp] theorem State.setSettlement_governed (e k : Nat) (x : Settlement) (e' : Nat) :
    (s.setSettlement e k x).governed e' = s.governed e' := rfl

/-! ## `setSnap` -/

@[simp] theorem State.setSnap_pending (d : Nat) (dir : Dir) (k : Nat) (x : SnapEntry) :
    (s.setSnap d dir k x).pending = s.pending := rfl
@[simp] theorem State.setSnap_mode (d : Nat) (dir : Dir) (k : Nat) (x : SnapEntry) :
    (s.setSnap d dir k x).mode = s.mode := rfl
@[simp] theorem State.setSnap_lastReset (d : Nat) (dir : Dir) (k : Nat) (x : SnapEntry) :
    (s.setSnap d dir k x).lastReset = s.lastReset := rfl
@[simp] theorem State.setSnap_clock (d : Nat) (dir : Dir) (k : Nat) (x : SnapEntry) :
    (s.setSnap d dir k x).clock = s.clock := rfl
@[simp] theorem State.setSnap_shelf (d : Nat) (dir : Dir) (k : Nat) (x : SnapEntry) :
    (s.setSnap d dir k x).shelf = s.shelf := rfl
@[simp] theorem State.setSnap_cg (d : Nat) (dir : Dir) (k : Nat) (x : SnapEntry) :
    (s.setSnap d dir k x).cg = s.cg := rfl
@[simp] theorem State.setSnap_ord (d : Nat) (dir : Dir) (k : Nat) (x : SnapEntry) :
    (s.setSnap d dir k x).ord = s.ord := rfl
@[simp] theorem State.setSnap_cfg (d : Nat) (dir : Dir) (k : Nat) (x : SnapEntry) :
    (s.setSnap d dir k x).cfg = s.cfg := rfl
@[simp] theorem State.setSnap_pa (d : Nat) (dir : Dir) (k : Nat) (x : SnapEntry) :
    (s.setSnap d dir k x).pa = s.pa := rfl
@[simp] theorem State.setSnap_gates (d : Nat) (dir : Dir) (k : Nat) (x : SnapEntry) :
    (s.setSnap d dir k x).gates = s.gates := rfl
@[simp] theorem State.setSnap_jobs (d : Nat) (dir : Dir) (k : Nat) (x : SnapEntry) :
    (s.setSnap d dir k x).jobs = s.jobs := rfl
@[simp] theorem State.setSnap_slc (d : Nat) (dir : Dir) (k : Nat) (x : SnapEntry) :
    (s.setSnap d dir k x).slc = s.slc := rfl
@[simp] theorem State.setSnap_adoption (d : Nat) (dir : Dir) (k : Nat) (x : SnapEntry) :
    (s.setSnap d dir k x).adoption = s.adoption := rfl
@[simp] theorem State.setSnap_sent (d : Nat) (dir : Dir) (k : Nat) (x : SnapEntry) :
    (s.setSnap d dir k x).sent = s.sent := rfl
@[simp] theorem State.setSnap_marks (d : Nat) (dir : Dir) (k : Nat) (x : SnapEntry) :
    (s.setSnap d dir k x).marks = s.marks := rfl
@[simp] theorem State.setSnap_msu_sweeps (d : Nat) (dir : Dir) (k : Nat) (x : SnapEntry) :
    (s.setSnap d dir k x).msu.sweeps = s.msu.sweeps := rfl
@[simp] theorem State.setSnap_grid (d : Nat) (dir : Dir) (k : Nat) (x : SnapEntry) (e' k' : Nat) :
    (s.setSnap d dir k x).grid e' k' = s.grid e' k' := rfl
@[simp] theorem State.setSnap_settlement (d : Nat) (dir : Dir) (k : Nat) (x : SnapEntry) (e' k' : Nat) :
    (s.setSnap d dir k x).settlement e' k' = s.settlement e' k' := rfl
@[simp] theorem State.setSnap_sweep (d : Nat) (dir : Dir) (k : Nat) (x : SnapEntry) (d' : Nat) :
    (s.setSnap d dir k x).sweep d' = s.sweep d' := rfl
@[simp] theorem State.setSnap_entry (d : Nat) (dir : Dir) (k : Nat) (x : SnapEntry) (p' : Nat) :
    (s.setSnap d dir k x).entry p' = s.entry p' := rfl
@[simp] theorem State.setSnap_job (d : Nat) (dir : Dir) (k : Nat) (x : SnapEntry) (j' : Nat) :
    (s.setSnap d dir k x).job j' = s.job j' := rfl
@[simp] theorem State.setSnap_gate (d : Nat) (dir : Dir) (k : Nat) (x : SnapEntry) (d' : Nat) (dir' : Dir) :
    (s.setSnap d dir k x).gate d' dir' = s.gate d' dir' := rfl
@[simp] theorem State.setSnap_link (d : Nat) (dir : Dir) (k : Nat) (x : SnapEntry) (d' : Nat) :
    (s.setSnap d dir k x).link d' = s.link d' := rfl
@[simp] theorem State.setSnap_watch (d : Nat) (dir : Dir) (k : Nat) (x : SnapEntry) (d' : Nat) :
    (s.setSnap d dir k x).watch d' = s.watch d' := rfl
@[simp] theorem State.setSnap_inIntake (d : Nat) (dir : Dir) (k : Nat) (x : SnapEntry) (d' : Nat) :
    (s.setSnap d dir k x).inIntake d' = s.inIntake d' := rfl
@[simp] theorem State.setSnap_now (d : Nat) (dir : Dir) (k : Nat) (x : SnapEntry) :
    (s.setSnap d dir k x).now = s.now := rfl
@[simp] theorem State.setSnap_degree (d : Nat) (dir : Dir) (k : Nat) (x : SnapEntry) (d' : Nat) :
    (s.setSnap d dir k x).degree d' = s.degree d' := rfl
@[simp] theorem State.setSnap_period (d : Nat) (dir : Dir) (k : Nat) (x : SnapEntry) :
    (s.setSnap d dir k x).period = s.period := rfl
@[simp] theorem State.setSnap_isEquipped (d : Nat) (dir : Dir) (k : Nat) (x : SnapEntry) (d' : Nat) :
    (s.setSnap d dir k x).isEquipped d' = s.isEquipped d' := rfl
@[simp] theorem State.setSnap_governed (d : Nat) (dir : Dir) (k : Nat) (x : SnapEntry) (e' : Nat) :
    (s.setSnap d dir k x).governed e' = s.governed e' := rfl

/-! ## `setEntry` -/

@[simp] theorem State.setEntry_pending (p : Nat) (x : Option Participation) :
    (s.setEntry p x).pending = s.pending := rfl
@[simp] theorem State.setEntry_mode (p : Nat) (x : Option Participation) : (s.setEntry p x).mode = s.mode := rfl
@[simp] theorem State.setEntry_lastReset (p : Nat) (x : Option Participation) :
    (s.setEntry p x).lastReset = s.lastReset := rfl
@[simp] theorem State.setEntry_clock (p : Nat) (x : Option Participation) : (s.setEntry p x).clock = s.clock := rfl
@[simp] theorem State.setEntry_shelf (p : Nat) (x : Option Participation) : (s.setEntry p x).shelf = s.shelf := rfl
@[simp] theorem State.setEntry_msu (p : Nat) (x : Option Participation) : (s.setEntry p x).msu = s.msu := rfl
@[simp] theorem State.setEntry_cg (p : Nat) (x : Option Participation) : (s.setEntry p x).cg = s.cg := rfl
@[simp] theorem State.setEntry_ord (p : Nat) (x : Option Participation) : (s.setEntry p x).ord = s.ord := rfl
@[simp] theorem State.setEntry_cfg (p : Nat) (x : Option Participation) : (s.setEntry p x).cfg = s.cfg := rfl
@[simp] theorem State.setEntry_gates (p : Nat) (x : Option Participation) : (s.setEntry p x).gates = s.gates := rfl
@[simp] theorem State.setEntry_jobs (p : Nat) (x : Option Participation) : (s.setEntry p x).jobs = s.jobs := rfl
@[simp] theorem State.setEntry_slc (p : Nat) (x : Option Participation) : (s.setEntry p x).slc = s.slc := rfl
@[simp] theorem State.setEntry_adoption (p : Nat) (x : Option Participation) :
    (s.setEntry p x).adoption = s.adoption := rfl
@[simp] theorem State.setEntry_sent (p : Nat) (x : Option Participation) : (s.setEntry p x).sent = s.sent := rfl
@[simp] theorem State.setEntry_marks (p : Nat) (x : Option Participation) : (s.setEntry p x).marks = s.marks := rfl
@[simp] theorem State.setEntry_pa_returns (p : Nat) (x : Option Participation) :
    (s.setEntry p x).pa.returns = s.pa.returns := rfl
@[simp] theorem State.setEntry_grid (p : Nat) (x : Option Participation) (e' k' : Nat) :
    (s.setEntry p x).grid e' k' = s.grid e' k' := rfl
@[simp] theorem State.setEntry_settlement (p : Nat) (x : Option Participation) (e' k' : Nat) :
    (s.setEntry p x).settlement e' k' = s.settlement e' k' := rfl
@[simp] theorem State.setEntry_snap (p : Nat) (x : Option Participation) (d' : Nat) (dir' : Dir) (k' : Nat) :
    (s.setEntry p x).snap d' dir' k' = s.snap d' dir' k' := rfl
@[simp] theorem State.setEntry_sweep (p : Nat) (x : Option Participation) (d' : Nat) :
    (s.setEntry p x).sweep d' = s.sweep d' := rfl
@[simp] theorem State.setEntry_job (p : Nat) (x : Option Participation) (j' : Nat) :
    (s.setEntry p x).job j' = s.job j' := rfl
@[simp] theorem State.setEntry_gate (p : Nat) (x : Option Participation) (d' : Nat) (dir' : Dir) :
    (s.setEntry p x).gate d' dir' = s.gate d' dir' := rfl
@[simp] theorem State.setEntry_link (p : Nat) (x : Option Participation) (d' : Nat) :
    (s.setEntry p x).link d' = s.link d' := rfl
@[simp] theorem State.setEntry_watch (p : Nat) (x : Option Participation) (d' : Nat) :
    (s.setEntry p x).watch d' = s.watch d' := rfl
@[simp] theorem State.setEntry_inIntake (p : Nat) (x : Option Participation) (d' : Nat) :
    (s.setEntry p x).inIntake d' = s.inIntake d' := rfl
@[simp] theorem State.setEntry_now (p : Nat) (x : Option Participation) : (s.setEntry p x).now = s.now := rfl
@[simp] theorem State.setEntry_degree (p : Nat) (x : Option Participation) (d' : Nat) :
    (s.setEntry p x).degree d' = s.degree d' := rfl
@[simp] theorem State.setEntry_period (p : Nat) (x : Option Participation) : (s.setEntry p x).period = s.period := rfl
@[simp] theorem State.setEntry_isEquipped (p : Nat) (x : Option Participation) (d' : Nat) :
    (s.setEntry p x).isEquipped d' = s.isEquipped d' := rfl
@[simp] theorem State.setEntry_governed (p : Nat) (x : Option Participation) (e' : Nat) :
    (s.setEntry p x).governed e' = s.governed e' := rfl

/-! ## `setJob` -/

@[simp] theorem State.setJob_pending (j : Nat) (x : Option Job) : (s.setJob j x).pending = s.pending := rfl
@[simp] theorem State.setJob_mode (j : Nat) (x : Option Job) : (s.setJob j x).mode = s.mode := rfl
@[simp] theorem State.setJob_lastReset (j : Nat) (x : Option Job) : (s.setJob j x).lastReset = s.lastReset := rfl
@[simp] theorem State.setJob_clock (j : Nat) (x : Option Job) : (s.setJob j x).clock = s.clock := rfl
@[simp] theorem State.setJob_shelf (j : Nat) (x : Option Job) : (s.setJob j x).shelf = s.shelf := rfl
@[simp] theorem State.setJob_msu (j : Nat) (x : Option Job) : (s.setJob j x).msu = s.msu := rfl
@[simp] theorem State.setJob_cg (j : Nat) (x : Option Job) : (s.setJob j x).cg = s.cg := rfl
@[simp] theorem State.setJob_ord (j : Nat) (x : Option Job) : (s.setJob j x).ord = s.ord := rfl
@[simp] theorem State.setJob_cfg (j : Nat) (x : Option Job) : (s.setJob j x).cfg = s.cfg := rfl
@[simp] theorem State.setJob_pa (j : Nat) (x : Option Job) : (s.setJob j x).pa = s.pa := rfl
@[simp] theorem State.setJob_gates (j : Nat) (x : Option Job) : (s.setJob j x).gates = s.gates := rfl
@[simp] theorem State.setJob_slc (j : Nat) (x : Option Job) : (s.setJob j x).slc = s.slc := rfl
@[simp] theorem State.setJob_adoption (j : Nat) (x : Option Job) : (s.setJob j x).adoption = s.adoption := rfl
@[simp] theorem State.setJob_sent (j : Nat) (x : Option Job) : (s.setJob j x).sent = s.sent := rfl
@[simp] theorem State.setJob_marks (j : Nat) (x : Option Job) : (s.setJob j x).marks = s.marks := rfl
@[simp] theorem State.setJob_grid (j : Nat) (x : Option Job) (e' k' : Nat) :
    (s.setJob j x).grid e' k' = s.grid e' k' := rfl
@[simp] theorem State.setJob_settlement (j : Nat) (x : Option Job) (e' k' : Nat) :
    (s.setJob j x).settlement e' k' = s.settlement e' k' := rfl
@[simp] theorem State.setJob_snap (j : Nat) (x : Option Job) (d' : Nat) (dir' : Dir) (k' : Nat) :
    (s.setJob j x).snap d' dir' k' = s.snap d' dir' k' := rfl
@[simp] theorem State.setJob_sweep (j : Nat) (x : Option Job) (d' : Nat) : (s.setJob j x).sweep d' = s.sweep d' := rfl
@[simp] theorem State.setJob_entry (j : Nat) (x : Option Job) (p' : Nat) : (s.setJob j x).entry p' = s.entry p' := rfl
@[simp] theorem State.setJob_gate (j : Nat) (x : Option Job) (d' : Nat) (dir' : Dir) :
    (s.setJob j x).gate d' dir' = s.gate d' dir' := rfl
@[simp] theorem State.setJob_link (j : Nat) (x : Option Job) (d' : Nat) : (s.setJob j x).link d' = s.link d' := rfl
@[simp] theorem State.setJob_watch (j : Nat) (x : Option Job) (d' : Nat) : (s.setJob j x).watch d' = s.watch d' := rfl
@[simp] theorem State.setJob_inIntake (j : Nat) (x : Option Job) (d' : Nat) :
    (s.setJob j x).inIntake d' = s.inIntake d' := rfl
@[simp] theorem State.setJob_now (j : Nat) (x : Option Job) : (s.setJob j x).now = s.now := rfl
@[simp] theorem State.setJob_degree (j : Nat) (x : Option Job) (d' : Nat) :
    (s.setJob j x).degree d' = s.degree d' := rfl
@[simp] theorem State.setJob_period (j : Nat) (x : Option Job) : (s.setJob j x).period = s.period := rfl
@[simp] theorem State.setJob_isEquipped (j : Nat) (x : Option Job) (d' : Nat) :
    (s.setJob j x).isEquipped d' = s.isEquipped d' := rfl
@[simp] theorem State.setJob_governed (j : Nat) (x : Option Job) (e' : Nat) :
    (s.setJob j x).governed e' = s.governed e' := rfl

/-! ## `setGate` -/

@[simp] theorem State.setGate_pending (d : Nat) (dir : Dir) (x : Option GateHold) :
    (s.setGate d dir x).pending = s.pending := rfl
@[simp] theorem State.setGate_mode (d : Nat) (dir : Dir) (x : Option GateHold) :
    (s.setGate d dir x).mode = s.mode := rfl
@[simp] theorem State.setGate_lastReset (d : Nat) (dir : Dir) (x : Option GateHold) :
    (s.setGate d dir x).lastReset = s.lastReset := rfl
@[simp] theorem State.setGate_clock (d : Nat) (dir : Dir) (x : Option GateHold) :
    (s.setGate d dir x).clock = s.clock := rfl
@[simp] theorem State.setGate_shelf (d : Nat) (dir : Dir) (x : Option GateHold) :
    (s.setGate d dir x).shelf = s.shelf := rfl
@[simp] theorem State.setGate_msu (d : Nat) (dir : Dir) (x : Option GateHold) : (s.setGate d dir x).msu = s.msu := rfl
@[simp] theorem State.setGate_cg (d : Nat) (dir : Dir) (x : Option GateHold) : (s.setGate d dir x).cg = s.cg := rfl
@[simp] theorem State.setGate_ord (d : Nat) (dir : Dir) (x : Option GateHold) : (s.setGate d dir x).ord = s.ord := rfl
@[simp] theorem State.setGate_cfg (d : Nat) (dir : Dir) (x : Option GateHold) : (s.setGate d dir x).cfg = s.cfg := rfl
@[simp] theorem State.setGate_pa (d : Nat) (dir : Dir) (x : Option GateHold) : (s.setGate d dir x).pa = s.pa := rfl
@[simp] theorem State.setGate_jobs (d : Nat) (dir : Dir) (x : Option GateHold) :
    (s.setGate d dir x).jobs = s.jobs := rfl
@[simp] theorem State.setGate_slc (d : Nat) (dir : Dir) (x : Option GateHold) : (s.setGate d dir x).slc = s.slc := rfl
@[simp] theorem State.setGate_adoption (d : Nat) (dir : Dir) (x : Option GateHold) :
    (s.setGate d dir x).adoption = s.adoption := rfl
@[simp] theorem State.setGate_sent (d : Nat) (dir : Dir) (x : Option GateHold) :
    (s.setGate d dir x).sent = s.sent := rfl
@[simp] theorem State.setGate_marks (d : Nat) (dir : Dir) (x : Option GateHold) :
    (s.setGate d dir x).marks = s.marks := rfl
@[simp] theorem State.setGate_grid (d : Nat) (dir : Dir) (x : Option GateHold) (e' k' : Nat) :
    (s.setGate d dir x).grid e' k' = s.grid e' k' := rfl
@[simp] theorem State.setGate_settlement (d : Nat) (dir : Dir) (x : Option GateHold) (e' k' : Nat) :
    (s.setGate d dir x).settlement e' k' = s.settlement e' k' := rfl
@[simp] theorem State.setGate_snap (d : Nat) (dir : Dir) (x : Option GateHold) (d' : Nat) (dir' : Dir) (k' : Nat) :
    (s.setGate d dir x).snap d' dir' k' = s.snap d' dir' k' := rfl
@[simp] theorem State.setGate_sweep (d : Nat) (dir : Dir) (x : Option GateHold) (d' : Nat) :
    (s.setGate d dir x).sweep d' = s.sweep d' := rfl
@[simp] theorem State.setGate_entry (d : Nat) (dir : Dir) (x : Option GateHold) (p' : Nat) :
    (s.setGate d dir x).entry p' = s.entry p' := rfl
@[simp] theorem State.setGate_job (d : Nat) (dir : Dir) (x : Option GateHold) (j' : Nat) :
    (s.setGate d dir x).job j' = s.job j' := rfl
@[simp] theorem State.setGate_link (d : Nat) (dir : Dir) (x : Option GateHold) (d' : Nat) :
    (s.setGate d dir x).link d' = s.link d' := rfl
@[simp] theorem State.setGate_watch (d : Nat) (dir : Dir) (x : Option GateHold) (d' : Nat) :
    (s.setGate d dir x).watch d' = s.watch d' := rfl
@[simp] theorem State.setGate_inIntake (d : Nat) (dir : Dir) (x : Option GateHold) (d' : Nat) :
    (s.setGate d dir x).inIntake d' = s.inIntake d' := rfl
@[simp] theorem State.setGate_now (d : Nat) (dir : Dir) (x : Option GateHold) : (s.setGate d dir x).now = s.now := rfl
@[simp] theorem State.setGate_degree (d : Nat) (dir : Dir) (x : Option GateHold) (d' : Nat) :
    (s.setGate d dir x).degree d' = s.degree d' := rfl
@[simp] theorem State.setGate_period (d : Nat) (dir : Dir) (x : Option GateHold) :
    (s.setGate d dir x).period = s.period := rfl
@[simp] theorem State.setGate_isEquipped (d : Nat) (dir : Dir) (x : Option GateHold) (d' : Nat) :
    (s.setGate d dir x).isEquipped d' = s.isEquipped d' := rfl
@[simp] theorem State.setGate_governed (d : Nat) (dir : Dir) (x : Option GateHold) (e' : Nat) :
    (s.setGate d dir x).governed e' = s.governed e' := rfl

/-! ## `setLink` -/

@[simp] theorem State.setLink_pending (d : Nat) (x : Link) : (s.setLink d x).pending = s.pending := rfl
@[simp] theorem State.setLink_mode (d : Nat) (x : Link) : (s.setLink d x).mode = s.mode := rfl
@[simp] theorem State.setLink_lastReset (d : Nat) (x : Link) : (s.setLink d x).lastReset = s.lastReset := rfl
@[simp] theorem State.setLink_clock (d : Nat) (x : Link) : (s.setLink d x).clock = s.clock := rfl
@[simp] theorem State.setLink_shelf (d : Nat) (x : Link) : (s.setLink d x).shelf = s.shelf := rfl
@[simp] theorem State.setLink_msu (d : Nat) (x : Link) : (s.setLink d x).msu = s.msu := rfl
@[simp] theorem State.setLink_cg (d : Nat) (x : Link) : (s.setLink d x).cg = s.cg := rfl
@[simp] theorem State.setLink_ord (d : Nat) (x : Link) : (s.setLink d x).ord = s.ord := rfl
@[simp] theorem State.setLink_cfg (d : Nat) (x : Link) : (s.setLink d x).cfg = s.cfg := rfl
@[simp] theorem State.setLink_pa (d : Nat) (x : Link) : (s.setLink d x).pa = s.pa := rfl
@[simp] theorem State.setLink_gates (d : Nat) (x : Link) : (s.setLink d x).gates = s.gates := rfl
@[simp] theorem State.setLink_jobs (d : Nat) (x : Link) : (s.setLink d x).jobs = s.jobs := rfl
@[simp] theorem State.setLink_adoption (d : Nat) (x : Link) : (s.setLink d x).adoption = s.adoption := rfl
@[simp] theorem State.setLink_sent (d : Nat) (x : Link) : (s.setLink d x).sent = s.sent := rfl
@[simp] theorem State.setLink_marks (d : Nat) (x : Link) : (s.setLink d x).marks = s.marks := rfl
@[simp] theorem State.setLink_slc_freshFrom (d : Nat) (x : Link) :
    (s.setLink d x).slc.freshFrom = s.slc.freshFrom := rfl
@[simp] theorem State.setLink_grid (d : Nat) (x : Link) (e' k' : Nat) : (s.setLink d x).grid e' k' = s.grid e' k' := rfl
@[simp] theorem State.setLink_settlement (d : Nat) (x : Link) (e' k' : Nat) :
    (s.setLink d x).settlement e' k' = s.settlement e' k' := rfl
@[simp] theorem State.setLink_snap (d : Nat) (x : Link) (d' : Nat) (dir' : Dir) (k' : Nat) :
    (s.setLink d x).snap d' dir' k' = s.snap d' dir' k' := rfl
@[simp] theorem State.setLink_sweep (d : Nat) (x : Link) (d' : Nat) : (s.setLink d x).sweep d' = s.sweep d' := rfl
@[simp] theorem State.setLink_entry (d : Nat) (x : Link) (p' : Nat) : (s.setLink d x).entry p' = s.entry p' := rfl
@[simp] theorem State.setLink_job (d : Nat) (x : Link) (j' : Nat) : (s.setLink d x).job j' = s.job j' := rfl
@[simp] theorem State.setLink_gate (d : Nat) (x : Link) (d' : Nat) (dir' : Dir) :
    (s.setLink d x).gate d' dir' = s.gate d' dir' := rfl
@[simp] theorem State.setLink_watch (d : Nat) (x : Link) (d' : Nat) : (s.setLink d x).watch d' = s.watch d' := rfl
@[simp] theorem State.setLink_inIntake (d : Nat) (x : Link) (d' : Nat) :
    (s.setLink d x).inIntake d' = s.inIntake d' := rfl
@[simp] theorem State.setLink_now (d : Nat) (x : Link) : (s.setLink d x).now = s.now := rfl
@[simp] theorem State.setLink_degree (d : Nat) (x : Link) (d' : Nat) : (s.setLink d x).degree d' = s.degree d' := rfl
@[simp] theorem State.setLink_period (d : Nat) (x : Link) : (s.setLink d x).period = s.period := rfl
@[simp] theorem State.setLink_isEquipped (d : Nat) (x : Link) (d' : Nat) :
    (s.setLink d x).isEquipped d' = s.isEquipped d' := rfl
@[simp] theorem State.setLink_governed (d : Nat) (x : Link) (e' : Nat) :
    (s.setLink d x).governed e' = s.governed e' := rfl

/-! ## `setWatch` -/

@[simp] theorem State.setWatch_pending (d : Nat) (x : Option Timer) : (s.setWatch d x).pending = s.pending := rfl
@[simp] theorem State.setWatch_mode (d : Nat) (x : Option Timer) : (s.setWatch d x).mode = s.mode := rfl
@[simp] theorem State.setWatch_lastReset (d : Nat) (x : Option Timer) : (s.setWatch d x).lastReset = s.lastReset := rfl
@[simp] theorem State.setWatch_clock (d : Nat) (x : Option Timer) : (s.setWatch d x).clock = s.clock := rfl
@[simp] theorem State.setWatch_shelf (d : Nat) (x : Option Timer) : (s.setWatch d x).shelf = s.shelf := rfl
@[simp] theorem State.setWatch_msu (d : Nat) (x : Option Timer) : (s.setWatch d x).msu = s.msu := rfl
@[simp] theorem State.setWatch_ord (d : Nat) (x : Option Timer) : (s.setWatch d x).ord = s.ord := rfl
@[simp] theorem State.setWatch_cfg (d : Nat) (x : Option Timer) : (s.setWatch d x).cfg = s.cfg := rfl
@[simp] theorem State.setWatch_pa (d : Nat) (x : Option Timer) : (s.setWatch d x).pa = s.pa := rfl
@[simp] theorem State.setWatch_gates (d : Nat) (x : Option Timer) : (s.setWatch d x).gates = s.gates := rfl
@[simp] theorem State.setWatch_jobs (d : Nat) (x : Option Timer) : (s.setWatch d x).jobs = s.jobs := rfl
@[simp] theorem State.setWatch_slc (d : Nat) (x : Option Timer) : (s.setWatch d x).slc = s.slc := rfl
@[simp] theorem State.setWatch_adoption (d : Nat) (x : Option Timer) : (s.setWatch d x).adoption = s.adoption := rfl
@[simp] theorem State.setWatch_sent (d : Nat) (x : Option Timer) : (s.setWatch d x).sent = s.sent := rfl
@[simp] theorem State.setWatch_marks (d : Nat) (x : Option Timer) : (s.setWatch d x).marks = s.marks := rfl
@[simp] theorem State.setWatch_cg_entries (d : Nat) (x : Option Timer) :
    (s.setWatch d x).cg.entries = s.cg.entries := rfl
@[simp] theorem State.setWatch_cg_settlements (d : Nat) (x : Option Timer) :
    (s.setWatch d x).cg.settlements = s.cg.settlements := rfl
@[simp] theorem State.setWatch_cg_intakes (d : Nat) (x : Option Timer) :
    (s.setWatch d x).cg.intakes = s.cg.intakes := rfl
@[simp] theorem State.setWatch_grid (d : Nat) (x : Option Timer) (e' k' : Nat) :
    (s.setWatch d x).grid e' k' = s.grid e' k' := rfl
@[simp] theorem State.setWatch_settlement (d : Nat) (x : Option Timer) (e' k' : Nat) :
    (s.setWatch d x).settlement e' k' = s.settlement e' k' := rfl
@[simp] theorem State.setWatch_snap (d : Nat) (x : Option Timer) (d' : Nat) (dir' : Dir) (k' : Nat) :
    (s.setWatch d x).snap d' dir' k' = s.snap d' dir' k' := rfl
@[simp] theorem State.setWatch_sweep (d : Nat) (x : Option Timer) (d' : Nat) :
    (s.setWatch d x).sweep d' = s.sweep d' := rfl
@[simp] theorem State.setWatch_entry (d : Nat) (x : Option Timer) (p' : Nat) :
    (s.setWatch d x).entry p' = s.entry p' := rfl
@[simp] theorem State.setWatch_job (d : Nat) (x : Option Timer) (j' : Nat) : (s.setWatch d x).job j' = s.job j' := rfl
@[simp] theorem State.setWatch_gate (d : Nat) (x : Option Timer) (d' : Nat) (dir' : Dir) :
    (s.setWatch d x).gate d' dir' = s.gate d' dir' := rfl
@[simp] theorem State.setWatch_link (d : Nat) (x : Option Timer) (d' : Nat) :
    (s.setWatch d x).link d' = s.link d' := rfl
@[simp] theorem State.setWatch_inIntake (d : Nat) (x : Option Timer) (d' : Nat) :
    (s.setWatch d x).inIntake d' = s.inIntake d' := rfl
@[simp] theorem State.setWatch_now (d : Nat) (x : Option Timer) : (s.setWatch d x).now = s.now := rfl
@[simp] theorem State.setWatch_degree (d : Nat) (x : Option Timer) (d' : Nat) :
    (s.setWatch d x).degree d' = s.degree d' := rfl
@[simp] theorem State.setWatch_period (d : Nat) (x : Option Timer) : (s.setWatch d x).period = s.period := rfl
@[simp] theorem State.setWatch_isEquipped (d : Nat) (x : Option Timer) (d' : Nat) :
    (s.setWatch d x).isEquipped d' = s.isEquipped d' := rfl
@[simp] theorem State.setWatch_governed (d : Nat) (x : Option Timer) (e' : Nat) :
    (s.setWatch d x).governed e' = s.governed e' := rfl

/-! ## `report` -/

@[simp] theorem State.report_pending (ev : Event) : (s.report ev).pending = s.pending := rfl
@[simp] theorem State.report_mode (ev : Event) : (s.report ev).mode = s.mode := rfl
@[simp] theorem State.report_lastReset (ev : Event) : (s.report ev).lastReset = s.lastReset := rfl
@[simp] theorem State.report_clock (ev : Event) : (s.report ev).clock = s.clock := rfl
@[simp] theorem State.report_msu (ev : Event) : (s.report ev).msu = s.msu := rfl
@[simp] theorem State.report_cg (ev : Event) : (s.report ev).cg = s.cg := rfl
@[simp] theorem State.report_ord (ev : Event) : (s.report ev).ord = s.ord := rfl
@[simp] theorem State.report_cfg (ev : Event) : (s.report ev).cfg = s.cfg := rfl
@[simp] theorem State.report_pa (ev : Event) : (s.report ev).pa = s.pa := rfl
@[simp] theorem State.report_gates (ev : Event) : (s.report ev).gates = s.gates := rfl
@[simp] theorem State.report_jobs (ev : Event) : (s.report ev).jobs = s.jobs := rfl
@[simp] theorem State.report_slc (ev : Event) : (s.report ev).slc = s.slc := rfl
@[simp] theorem State.report_adoption (ev : Event) : (s.report ev).adoption = s.adoption := rfl
@[simp] theorem State.report_sent (ev : Event) : (s.report ev).sent = s.sent := rfl
@[simp] theorem State.report_marks (ev : Event) : (s.report ev).marks = s.marks := rfl
@[simp] theorem State.report_grid (ev : Event) (e' k' : Nat) : (s.report ev).grid e' k' = s.grid e' k' := rfl
@[simp] theorem State.report_settlement (ev : Event) (e' k' : Nat) :
    (s.report ev).settlement e' k' = s.settlement e' k' := rfl
@[simp] theorem State.report_snap (ev : Event) (d' : Nat) (dir' : Dir) (k' : Nat) :
    (s.report ev).snap d' dir' k' = s.snap d' dir' k' := rfl
@[simp] theorem State.report_sweep (ev : Event) (d' : Nat) : (s.report ev).sweep d' = s.sweep d' := rfl
@[simp] theorem State.report_entry (ev : Event) (p' : Nat) : (s.report ev).entry p' = s.entry p' := rfl
@[simp] theorem State.report_job (ev : Event) (j' : Nat) : (s.report ev).job j' = s.job j' := rfl
@[simp] theorem State.report_gate (ev : Event) (d' : Nat) (dir' : Dir) :
    (s.report ev).gate d' dir' = s.gate d' dir' := rfl
@[simp] theorem State.report_link (ev : Event) (d' : Nat) : (s.report ev).link d' = s.link d' := rfl
@[simp] theorem State.report_watch (ev : Event) (d' : Nat) : (s.report ev).watch d' = s.watch d' := rfl
@[simp] theorem State.report_inIntake (ev : Event) (d' : Nat) : (s.report ev).inIntake d' = s.inIntake d' := rfl
@[simp] theorem State.report_now (ev : Event) : (s.report ev).now = s.now := rfl
@[simp] theorem State.report_degree (ev : Event) (d' : Nat) : (s.report ev).degree d' = s.degree d' := rfl
@[simp] theorem State.report_period (ev : Event) : (s.report ev).period = s.period := rfl
@[simp] theorem State.report_isEquipped (ev : Event) (d' : Nat) : (s.report ev).isEquipped d' = s.isEquipped d' := rfl
@[simp] theorem State.report_governed (ev : Event) (e' : Nat) : (s.report ev).governed e' = s.governed e' := rfl

/-! ## `reportAll` -/

@[simp] theorem State.reportAll_pending (evs : List Event) : (s.reportAll evs).pending = s.pending := rfl
@[simp] theorem State.reportAll_mode (evs : List Event) : (s.reportAll evs).mode = s.mode := rfl
@[simp] theorem State.reportAll_lastReset (evs : List Event) : (s.reportAll evs).lastReset = s.lastReset := rfl
@[simp] theorem State.reportAll_clock (evs : List Event) : (s.reportAll evs).clock = s.clock := rfl
@[simp] theorem State.reportAll_msu (evs : List Event) : (s.reportAll evs).msu = s.msu := rfl
@[simp] theorem State.reportAll_cg (evs : List Event) : (s.reportAll evs).cg = s.cg := rfl
@[simp] theorem State.reportAll_ord (evs : List Event) : (s.reportAll evs).ord = s.ord := rfl
@[simp] theorem State.reportAll_cfg (evs : List Event) : (s.reportAll evs).cfg = s.cfg := rfl
@[simp] theorem State.reportAll_pa (evs : List Event) : (s.reportAll evs).pa = s.pa := rfl
@[simp] theorem State.reportAll_gates (evs : List Event) : (s.reportAll evs).gates = s.gates := rfl
@[simp] theorem State.reportAll_jobs (evs : List Event) : (s.reportAll evs).jobs = s.jobs := rfl
@[simp] theorem State.reportAll_slc (evs : List Event) : (s.reportAll evs).slc = s.slc := rfl
@[simp] theorem State.reportAll_adoption (evs : List Event) : (s.reportAll evs).adoption = s.adoption := rfl
@[simp] theorem State.reportAll_sent (evs : List Event) : (s.reportAll evs).sent = s.sent := rfl
@[simp] theorem State.reportAll_marks (evs : List Event) : (s.reportAll evs).marks = s.marks := rfl
@[simp] theorem State.reportAll_grid (evs : List Event) (e' k' : Nat) :
    (s.reportAll evs).grid e' k' = s.grid e' k' := rfl
@[simp] theorem State.reportAll_settlement (evs : List Event) (e' k' : Nat) :
    (s.reportAll evs).settlement e' k' = s.settlement e' k' := rfl
@[simp] theorem State.reportAll_snap (evs : List Event) (d' : Nat) (dir' : Dir) (k' : Nat) :
    (s.reportAll evs).snap d' dir' k' = s.snap d' dir' k' := rfl
@[simp] theorem State.reportAll_sweep (evs : List Event) (d' : Nat) : (s.reportAll evs).sweep d' = s.sweep d' := rfl
@[simp] theorem State.reportAll_entry (evs : List Event) (p' : Nat) : (s.reportAll evs).entry p' = s.entry p' := rfl
@[simp] theorem State.reportAll_job (evs : List Event) (j' : Nat) : (s.reportAll evs).job j' = s.job j' := rfl
@[simp] theorem State.reportAll_gate (evs : List Event) (d' : Nat) (dir' : Dir) :
    (s.reportAll evs).gate d' dir' = s.gate d' dir' := rfl
@[simp] theorem State.reportAll_link (evs : List Event) (d' : Nat) : (s.reportAll evs).link d' = s.link d' := rfl
@[simp] theorem State.reportAll_watch (evs : List Event) (d' : Nat) : (s.reportAll evs).watch d' = s.watch d' := rfl
@[simp] theorem State.reportAll_inIntake (evs : List Event) (d' : Nat) :
    (s.reportAll evs).inIntake d' = s.inIntake d' := rfl
@[simp] theorem State.reportAll_now (evs : List Event) : (s.reportAll evs).now = s.now := rfl
@[simp] theorem State.reportAll_degree (evs : List Event) (d' : Nat) : (s.reportAll evs).degree d' = s.degree d' := rfl
@[simp] theorem State.reportAll_period (evs : List Event) : (s.reportAll evs).period = s.period := rfl
@[simp] theorem State.reportAll_isEquipped (evs : List Event) (d' : Nat) :
    (s.reportAll evs).isEquipped d' = s.isEquipped d' := rfl
@[simp] theorem State.reportAll_governed (evs : List Event) (e' : Nat) :
    (s.reportAll evs).governed e' = s.governed e' := rfl

/-! ## `produce` -/

@[simp] theorem State.produce_pending (r : PartReq) : (s.produce r).pending = s.pending := rfl
@[simp] theorem State.produce_mode (r : PartReq) : (s.produce r).mode = s.mode := rfl
@[simp] theorem State.produce_lastReset (r : PartReq) : (s.produce r).lastReset = s.lastReset := rfl
@[simp] theorem State.produce_clock (r : PartReq) : (s.produce r).clock = s.clock := rfl
@[simp] theorem State.produce_msu (r : PartReq) : (s.produce r).msu = s.msu := rfl
@[simp] theorem State.produce_cg (r : PartReq) : (s.produce r).cg = s.cg := rfl
@[simp] theorem State.produce_ord (r : PartReq) : (s.produce r).ord = s.ord := rfl
@[simp] theorem State.produce_cfg (r : PartReq) : (s.produce r).cfg = s.cfg := rfl
@[simp] theorem State.produce_pa (r : PartReq) : (s.produce r).pa = s.pa := rfl
@[simp] theorem State.produce_gates (r : PartReq) : (s.produce r).gates = s.gates := rfl
@[simp] theorem State.produce_jobs (r : PartReq) : (s.produce r).jobs = s.jobs := rfl
@[simp] theorem State.produce_slc (r : PartReq) : (s.produce r).slc = s.slc := rfl
@[simp] theorem State.produce_adoption (r : PartReq) : (s.produce r).adoption = s.adoption := rfl
@[simp] theorem State.produce_sent (r : PartReq) : (s.produce r).sent = s.sent := rfl
@[simp] theorem State.produce_marks (r : PartReq) : (s.produce r).marks = s.marks := rfl
@[simp] theorem State.produce_rw (r : PartReq) : (s.produce r).shelf.rw = s.shelf.rw := rfl
@[simp] theorem State.produce_grid (r : PartReq) (e' k' : Nat) : (s.produce r).grid e' k' = s.grid e' k' := rfl
@[simp] theorem State.produce_settlement (r : PartReq) (e' k' : Nat) :
    (s.produce r).settlement e' k' = s.settlement e' k' := rfl
@[simp] theorem State.produce_snap (r : PartReq) (d' : Nat) (dir' : Dir) (k' : Nat) :
    (s.produce r).snap d' dir' k' = s.snap d' dir' k' := rfl
@[simp] theorem State.produce_sweep (r : PartReq) (d' : Nat) : (s.produce r).sweep d' = s.sweep d' := rfl
@[simp] theorem State.produce_entry (r : PartReq) (p' : Nat) : (s.produce r).entry p' = s.entry p' := rfl
@[simp] theorem State.produce_job (r : PartReq) (j' : Nat) : (s.produce r).job j' = s.job j' := rfl
@[simp] theorem State.produce_gate (r : PartReq) (d' : Nat) (dir' : Dir) :
    (s.produce r).gate d' dir' = s.gate d' dir' := rfl
@[simp] theorem State.produce_link (r : PartReq) (d' : Nat) : (s.produce r).link d' = s.link d' := rfl
@[simp] theorem State.produce_watch (r : PartReq) (d' : Nat) : (s.produce r).watch d' = s.watch d' := rfl
@[simp] theorem State.produce_inIntake (r : PartReq) (d' : Nat) : (s.produce r).inIntake d' = s.inIntake d' := rfl
@[simp] theorem State.produce_now (r : PartReq) : (s.produce r).now = s.now := rfl
@[simp] theorem State.produce_degree (r : PartReq) (d' : Nat) : (s.produce r).degree d' = s.degree d' := rfl
@[simp] theorem State.produce_period (r : PartReq) : (s.produce r).period = s.period := rfl
@[simp] theorem State.produce_isEquipped (r : PartReq) (d' : Nat) : (s.produce r).isEquipped d' = s.isEquipped d' := rfl
@[simp] theorem State.produce_governed (r : PartReq) (e' : Nat) : (s.produce r).governed e' = s.governed e' := rfl

/-! ## `writeCell` -/

@[simp] theorem State.writeCell_pending (cls : ReqClass) (e k : Nat) (w : Word) (p : Purpose) :
    (s.writeCell cls e k w p).pending = s.pending := rfl
@[simp] theorem State.writeCell_mode (cls : ReqClass) (e k : Nat) (w : Word) (p : Purpose) :
    (s.writeCell cls e k w p).mode = s.mode := rfl
@[simp] theorem State.writeCell_lastReset (cls : ReqClass) (e k : Nat) (w : Word) (p : Purpose) :
    (s.writeCell cls e k w p).lastReset = s.lastReset := rfl
@[simp] theorem State.writeCell_clock (cls : ReqClass) (e k : Nat) (w : Word) (p : Purpose) :
    (s.writeCell cls e k w p).clock = s.clock := rfl
@[simp] theorem State.writeCell_msu (cls : ReqClass) (e k : Nat) (w : Word) (p : Purpose) :
    (s.writeCell cls e k w p).msu = s.msu := rfl
@[simp] theorem State.writeCell_cg (cls : ReqClass) (e k : Nat) (w : Word) (p : Purpose) :
    (s.writeCell cls e k w p).cg = s.cg := rfl
@[simp] theorem State.writeCell_ord (cls : ReqClass) (e k : Nat) (w : Word) (p : Purpose) :
    (s.writeCell cls e k w p).ord = s.ord := rfl
@[simp] theorem State.writeCell_cfg (cls : ReqClass) (e k : Nat) (w : Word) (p : Purpose) :
    (s.writeCell cls e k w p).cfg = s.cfg := rfl
@[simp] theorem State.writeCell_pa (cls : ReqClass) (e k : Nat) (w : Word) (p : Purpose) :
    (s.writeCell cls e k w p).pa = s.pa := rfl
@[simp] theorem State.writeCell_gates (cls : ReqClass) (e k : Nat) (w : Word) (p : Purpose) :
    (s.writeCell cls e k w p).gates = s.gates := rfl
@[simp] theorem State.writeCell_jobs (cls : ReqClass) (e k : Nat) (w : Word) (p : Purpose) :
    (s.writeCell cls e k w p).jobs = s.jobs := rfl
@[simp] theorem State.writeCell_slc (cls : ReqClass) (e k : Nat) (w : Word) (p : Purpose) :
    (s.writeCell cls e k w p).slc = s.slc := rfl
@[simp] theorem State.writeCell_adoption (cls : ReqClass) (e k : Nat) (w : Word) (p : Purpose) :
    (s.writeCell cls e k w p).adoption = s.adoption := rfl
@[simp] theorem State.writeCell_sent (cls : ReqClass) (e k : Nat) (w : Word) (p : Purpose) :
    (s.writeCell cls e k w p).sent = s.sent := rfl
@[simp] theorem State.writeCell_marks (cls : ReqClass) (e k : Nat) (w : Word) (p : Purpose) :
    (s.writeCell cls e k w p).marks = s.marks := rfl
@[simp] theorem State.writeCell_rw (cls : ReqClass) (e k : Nat) (w : Word) (p : Purpose) :
    (s.writeCell cls e k w p).shelf.rw = s.shelf.rw := rfl
@[simp] theorem State.writeCell_grid (cls : ReqClass) (e k : Nat) (w : Word) (p : Purpose) (e' k' : Nat) :
    (s.writeCell cls e k w p).grid e' k' = s.grid e' k' := rfl
@[simp] theorem State.writeCell_settlement (cls : ReqClass) (e k : Nat) (w : Word) (p : Purpose) (e' k' : Nat) :
    (s.writeCell cls e k w p).settlement e' k' = s.settlement e' k' := rfl
@[simp] theorem State.writeCell_snap (cls : ReqClass) (e k : Nat) (w : Word) (p : Purpose) (d' : Nat) (dir' : Dir) (k' : Nat) :
    (s.writeCell cls e k w p).snap d' dir' k' = s.snap d' dir' k' := rfl
@[simp] theorem State.writeCell_sweep (cls : ReqClass) (e k : Nat) (w : Word) (p : Purpose) (d' : Nat) :
    (s.writeCell cls e k w p).sweep d' = s.sweep d' := rfl
@[simp] theorem State.writeCell_entry (cls : ReqClass) (e k : Nat) (w : Word) (p : Purpose) (p' : Nat) :
    (s.writeCell cls e k w p).entry p' = s.entry p' := rfl
@[simp] theorem State.writeCell_job (cls : ReqClass) (e k : Nat) (w : Word) (p : Purpose) (j' : Nat) :
    (s.writeCell cls e k w p).job j' = s.job j' := rfl
@[simp] theorem State.writeCell_gate (cls : ReqClass) (e k : Nat) (w : Word) (p : Purpose) (d' : Nat) (dir' : Dir) :
    (s.writeCell cls e k w p).gate d' dir' = s.gate d' dir' := rfl
@[simp] theorem State.writeCell_link (cls : ReqClass) (e k : Nat) (w : Word) (p : Purpose) (d' : Nat) :
    (s.writeCell cls e k w p).link d' = s.link d' := rfl
@[simp] theorem State.writeCell_watch (cls : ReqClass) (e k : Nat) (w : Word) (p : Purpose) (d' : Nat) :
    (s.writeCell cls e k w p).watch d' = s.watch d' := rfl
@[simp] theorem State.writeCell_inIntake (cls : ReqClass) (e k : Nat) (w : Word) (p : Purpose) (d' : Nat) :
    (s.writeCell cls e k w p).inIntake d' = s.inIntake d' := rfl
@[simp] theorem State.writeCell_now (cls : ReqClass) (e k : Nat) (w : Word) (p : Purpose) :
    (s.writeCell cls e k w p).now = s.now := rfl
@[simp] theorem State.writeCell_degree (cls : ReqClass) (e k : Nat) (w : Word) (p : Purpose) (d' : Nat) :
    (s.writeCell cls e k w p).degree d' = s.degree d' := rfl
@[simp] theorem State.writeCell_period (cls : ReqClass) (e k : Nat) (w : Word) (p : Purpose) :
    (s.writeCell cls e k w p).period = s.period := rfl
@[simp] theorem State.writeCell_isEquipped (cls : ReqClass) (e k : Nat) (w : Word) (p : Purpose) (d' : Nat) :
    (s.writeCell cls e k w p).isEquipped d' = s.isEquipped d' := rfl
@[simp] theorem State.writeCell_governed (cls : ReqClass) (e k : Nat) (w : Word) (p : Purpose) (e' : Nat) :
    (s.writeCell cls e k w p).governed e' = s.governed e' := rfl

/-! ## `touch` -/

@[simp] theorem State.touch_pending (j : Nat) : (s.touch j).pending = s.pending := rfl
@[simp] theorem State.touch_mode (j : Nat) : (s.touch j).mode = s.mode := rfl
@[simp] theorem State.touch_lastReset (j : Nat) : (s.touch j).lastReset = s.lastReset := rfl
@[simp] theorem State.touch_clock (j : Nat) : (s.touch j).clock = s.clock := rfl
@[simp] theorem State.touch_shelf (j : Nat) : (s.touch j).shelf = s.shelf := rfl
@[simp] theorem State.touch_msu (j : Nat) : (s.touch j).msu = s.msu := rfl
@[simp] theorem State.touch_cg (j : Nat) : (s.touch j).cg = s.cg := rfl
@[simp] theorem State.touch_ord (j : Nat) : (s.touch j).ord = s.ord := rfl
@[simp] theorem State.touch_cfg (j : Nat) : (s.touch j).cfg = s.cfg := rfl
@[simp] theorem State.touch_pa (j : Nat) : (s.touch j).pa = s.pa := rfl
@[simp] theorem State.touch_gates (j : Nat) : (s.touch j).gates = s.gates := rfl
@[simp] theorem State.touch_jobs (j : Nat) : (s.touch j).jobs = s.jobs := rfl
@[simp] theorem State.touch_slc (j : Nat) : (s.touch j).slc = s.slc := rfl
@[simp] theorem State.touch_adoption (j : Nat) : (s.touch j).adoption = s.adoption := rfl
@[simp] theorem State.touch_sent (j : Nat) : (s.touch j).sent = s.sent := rfl
@[simp] theorem State.touch_ended (j : Nat) : (s.touch j).marks.ended = s.marks.ended := rfl
@[simp] theorem State.touch_shown (j : Nat) : (s.touch j).marks.shown = s.marks.shown := rfl
@[simp] theorem State.touch_grid (j : Nat) (e' k' : Nat) : (s.touch j).grid e' k' = s.grid e' k' := rfl
@[simp] theorem State.touch_settlement (j : Nat) (e' k' : Nat) :
    (s.touch j).settlement e' k' = s.settlement e' k' := rfl
@[simp] theorem State.touch_snap (j : Nat) (d' : Nat) (dir' : Dir) (k' : Nat) :
    (s.touch j).snap d' dir' k' = s.snap d' dir' k' := rfl
@[simp] theorem State.touch_sweep (j : Nat) (d' : Nat) : (s.touch j).sweep d' = s.sweep d' := rfl
@[simp] theorem State.touch_entry (j : Nat) (p' : Nat) : (s.touch j).entry p' = s.entry p' := rfl
@[simp] theorem State.touch_job (j : Nat) (j' : Nat) : (s.touch j).job j' = s.job j' := rfl
@[simp] theorem State.touch_gate (j : Nat) (d' : Nat) (dir' : Dir) : (s.touch j).gate d' dir' = s.gate d' dir' := rfl
@[simp] theorem State.touch_link (j : Nat) (d' : Nat) : (s.touch j).link d' = s.link d' := rfl
@[simp] theorem State.touch_watch (j : Nat) (d' : Nat) : (s.touch j).watch d' = s.watch d' := rfl
@[simp] theorem State.touch_inIntake (j : Nat) (d' : Nat) : (s.touch j).inIntake d' = s.inIntake d' := rfl
@[simp] theorem State.touch_now (j : Nat) : (s.touch j).now = s.now := rfl
@[simp] theorem State.touch_degree (j : Nat) (d' : Nat) : (s.touch j).degree d' = s.degree d' := rfl
@[simp] theorem State.touch_period (j : Nat) : (s.touch j).period = s.period := rfl
@[simp] theorem State.touch_isEquipped (j : Nat) (d' : Nat) : (s.touch j).isEquipped d' = s.isEquipped d' := rfl
@[simp] theorem State.touch_governed (j : Nat) (e' : Nat) : (s.touch j).governed e' = s.governed e' := rfl

/-! ## Reading back what was written -/

/-- Places of the grid are told apart by their index. -/
theorem gridIndex_inj {e k e' k' : Nat} (h : k < 96) (h' : k' < 96) (he : gridIndex e k = gridIndex e' k') :
    e = e' ∧ k = k' := by
  unfold gridIndex at he; omega

theorem gridIndex_lt {e k : Nat} (he : e ≤ 4) (hk : k < 96) : gridIndex e k < Config.gridEntries := by
  unfold gridIndex Config.gridEntries; omega

/-- Places of the snapshot are told apart by their index. -/
theorem snapIndex_inj {d d' k k' : Nat} {dir dir' : Dir} (hd : 1 ≤ d) (hd' : 1 ≤ d') (h : k < 96) (h' : k' < 96)
    (he : snapIndex d dir k = snapIndex d' dir' k') : d = d' ∧ dir = dir' ∧ k = k' := by
  unfold snapIndex at he
  cases dir <;> cases dir' <;> simp [Dir.code] at he ⊢ <;> omega

theorem snapIndex_lt {d k : Nat} {dir : Dir} (hd : 1 ≤ d) (hd' : d ≤ 4) (hk : k < 96) :
    snapIndex d dir k < Config.snapEntries := by
  unfold snapIndex Config.snapEntries
  cases dir <;> simp [Dir.code] <;> omega

/-- Gates are told apart by their index. -/
theorem gateIndex_inj {d d' : Nat} {dir dir' : Dir} (hd : 1 ≤ d) (hd' : 1 ≤ d')
    (he : gateIndex d dir = gateIndex d' dir') : d = d' ∧ dir = dir' := by
  unfold gateIndex at he
  cases dir <;> cases dir' <;> simp [Dir.code] at he ⊢ <;> omega

theorem gateIndex_lt {d : Nat} {dir : Dir} (hd : 1 ≤ d) (hd' : d ≤ 4) : gateIndex d dir < Config.gates := by
  unfold gateIndex Config.gates
  cases dir <;> simp [Dir.code] <;> omega

@[simp] theorem State.grid_setGrid_self (e k : Nat) (g : GridEntry) (he : e ≤ 4) (hk : k < 96) :
    (s.setGrid e k g).grid e k = g := Table.get_set_self _ _ _ (gridIndex_lt he hk)

theorem State.grid_setGrid_ne (e k e' k' : Nat) (g : GridEntry) (hk : k < 96) (hk' : k' < 96) (h : (e', k') ≠ (e, k)) :
    (s.setGrid e k g).grid e' k' = s.grid e' k' :=
  Table.get_set_ne _ _ _ _ fun hi => h (by obtain ⟨rfl, rfl⟩ := gridIndex_inj hk hk' hi; rfl)

@[simp] theorem State.settlement_setSettlement_self (e k : Nat) (x : Settlement) (he : e ≤ 4) (hk : k < 96) :
    (s.setSettlement e k x).settlement e k = x := Table.get_set_self _ _ _ (gridIndex_lt he hk)

theorem State.settlement_setSettlement_ne (e k e' k' : Nat) (x : Settlement) (hk : k < 96) (hk' : k' < 96)
    (h : (e', k') ≠ (e, k)) : (s.setSettlement e k x).settlement e' k' = s.settlement e' k' :=
  Table.get_set_ne _ _ _ _ fun hi => h (by obtain ⟨rfl, rfl⟩ := gridIndex_inj hk hk' hi; rfl)

@[simp] theorem State.snap_setSnap_self (d : Nat) (dir : Dir) (k : Nat) (x : SnapEntry) (hd : 1 ≤ d) (hd' : d ≤ 4)
    (hk : k < 96) : (s.setSnap d dir k x).snap d dir k = x := Table.get_set_self _ _ _ (snapIndex_lt hd hd' hk)

theorem State.snap_setSnap_ne (d d' : Nat) (dir dir' : Dir) (k k' : Nat) (x : SnapEntry) (hd : 1 ≤ d) (hd' : 1 ≤ d')
    (hk : k < 96) (hk' : k' < 96) (h : (d', dir', k') ≠ (d, dir, k)) :
    (s.setSnap d dir k x).snap d' dir' k' = s.snap d' dir' k' :=
  Table.get_set_ne _ _ _ _ fun hi => h (by obtain ⟨rfl, rfl, rfl⟩ := snapIndex_inj hd hd' hk hk' hi; rfl)

@[simp] theorem State.entry_setEntry_self (p : Nat) (x : Option Participation) (h : p < 32) :
    (s.setEntry p x).entry p = x := Table.get_set_self _ _ _ h

theorem State.entry_setEntry_ne (p q : Nat) (x : Option Participation) (h : q ≠ p) :
    (s.setEntry p x).entry q = s.entry q := Table.get_set_ne _ _ _ _ h.symm

@[simp] theorem State.job_setJob_self (j : Nat) (x : Option Job) (h : j < 8) : (s.setJob j x).job j = x :=
  Table.get_set_self _ _ _ h

theorem State.job_setJob_ne (j i : Nat) (x : Option Job) (h : i ≠ j) : (s.setJob j x).job i = s.job i :=
  Table.get_set_ne _ _ _ _ h.symm

@[simp] theorem State.gate_setGate_self (d : Nat) (dir : Dir) (x : Option GateHold) (hd : 1 ≤ d) (hd' : d ≤ 4) :
    (s.setGate d dir x).gate d dir = x := Table.get_set_self _ _ _ (gateIndex_lt hd hd')

theorem State.gate_setGate_ne (d d' : Nat) (dir dir' : Dir) (x : Option GateHold) (hd : 1 ≤ d) (hd' : 1 ≤ d')
    (h : (d', dir') ≠ (d, dir)) : (s.setGate d dir x).gate d' dir' = s.gate d' dir' :=
  Table.get_set_ne _ _ _ _ fun hi => h (by obtain ⟨rfl, rfl⟩ := gateIndex_inj hd hd' hi; rfl)

@[simp] theorem State.link_setLink_self (d : Nat) (x : Link) (hd : 1 ≤ d) (hd' : d ≤ 4) : (s.setLink d x).link d = x :=
  Table.get_set_self _ _ _ (by unfold Config.degrees; omega)

theorem State.link_setLink_ne (d d' : Nat) (x : Link) (hd : 1 ≤ d) (hd' : 1 ≤ d') (h : d' ≠ d) :
    (s.setLink d x).link d' = s.link d' := Table.get_set_ne _ _ _ _ (by omega)

@[simp] theorem State.watch_setWatch_self (d : Nat) (x : Option Timer) (hd : 1 ≤ d) (hd' : d ≤ 4) :
    (s.setWatch d x).watch d = x := Table.get_set_self _ _ _ (by unfold Config.degrees; omega)

theorem State.watch_setWatch_ne (d d' : Nat) (x : Option Timer) (hd : 1 ≤ d) (hd' : 1 ≤ d') (h : d' ≠ d) :
    (s.setWatch d x).watch d' = s.watch d' := Table.get_set_ne _ _ _ _ (by omega)

/-- A live entry stands within the Participation Table. -/
theorem State.entry_lt {s : State} {p : Nat} {x : Participation} (h : s.entry p = some x) : p < 32 := by
  by_contra hp
  have : s.entry p = none := Table.get_of_le _ _ (by unfold Config.entries; omega)
  simp [this] at h

/-- A live job's number lies below 8. -/
theorem State.job_lt {s : State} {j : Nat} {x : Job} (h : s.job j = some x) : j < 8 := by
  by_contra hj
  have : s.job j = none := Table.get_of_le _ _ (by unfold Config.jobs; omega)
  simp [this] at h

end Sys2Proof.Machine
end

