-- ==== Sys2Proof/Laws/Ops.lean ====
section
/-! SUPPORT. One lemma for each shared operation of Machine/Ops.lean that says once everything it can do. Provers cite
these and do not unfold the operations. -/

namespace Sys2Proof.Machine

/-! ## Part accesses -/

/-- `enqueue` changes nothing but the pending requests. -/
theorem BusInterposer.enqueue_frame (b : BusInterposer) (r : PartReq) :
    b.enqueue r = { b with parts := (b.enqueue r).parts } := rfl

/-- `produce` defers a write under an open hold, and makes any other access pending. -/
theorem BusInterposer.produce_cases (b : BusInterposer) (r : PartReq) :
    (∃ w h, r.data = some w ∧ b.openHold r.offset = some h ∧
      b.produce r = { b with
        holds := b.holds.set h
          { b.holds.get h with deferred := insertDeferred r.offset w (b.holds.get h).deferred } }) ∨
    ((r.data = none ∨ b.openHold r.offset = none) ∧ b.produce r = b.enqueue r) := by
  unfold BusInterposer.produce
  cases hd : r.data with
  | none => exact .inr ⟨.inl rfl, rfl⟩
  | some w =>
    cases ho : b.openHold r.offset with
    | none => exact .inr ⟨.inr rfl, rfl⟩
    | some h => exact .inl ⟨w, h, rfl, rfl, rfl⟩

/-- `produce` changes nothing but the pending requests and what the holds defer. -/
theorem BusInterposer.produce_frame (b : BusInterposer) (r : PartReq) :
    b.produce r = { b with parts := (b.produce r).parts, holds := (b.produce r).holds } := by
  rcases b.produce_cases r with ⟨w, h, -, -, e⟩ | ⟨-, e⟩
  · rw [e]
  · rw [e]; rfl

/-- `produce` opens and closes no hold. -/
theorem BusInterposer.produce_opened (b : BusInterposer) (r : PartReq) (h : Nat) :
    ((b.produce r).holds.get h).opened = (b.holds.get h).opened := by
  rcases b.produce_cases r with ⟨w, k, -, -, e⟩ | ⟨-, e⟩
  · rw [e]
    rcases Nat.lt_or_ge h Config.holdRecords with hh | hh
    · simp only [Table.get_set _ _ _ _ hh]
      split
      · subst k; rfl
      · rfl
    · simp [Table.get_of_le _ _ hh]
  · rw [e]; rfl

/-- A list of accesses produced one after another changes nothing but the pending requests and what the holds defer. -/
theorem BusInterposer.foldl_produce {α : Type} (f : BusInterposer → α → BusInterposer)
    (hf : ∀ b a, f b a = { b with parts := (f b a).parts, holds := (f b a).holds } ∧
      ∀ h, ((f b a).holds.get h).opened = (b.holds.get h).opened) (l : List α) (b : BusInterposer) :
    l.foldl f b = { b with parts := (l.foldl f b).parts, holds := (l.foldl f b).holds } ∧
      ∀ h, ((l.foldl f b).holds.get h).opened = (b.holds.get h).opened := by
  induction l generalizing b with
  | nil => exact ⟨rfl, fun _ => rfl⟩
  | cons a l ih =>
    obtain ⟨h1, h2⟩ := hf b a
    obtain ⟨h3, h4⟩ := ih (f b a)
    refine ⟨?_, fun h => (h4 h).trans (h2 h)⟩
    rw [List.foldl_cons, h3, h1]

/-- `closeHold` closes the hold and moves what it deferred to the pending requests; nothing else changes. -/
theorem BusInterposer.closeHold_frame (b : BusInterposer) (r : Nat) :
    b.closeHold r = { b with parts := (b.closeHold r).parts, holds := b.holds.set r ⟨none, []⟩ } := by
  unfold BusInterposer.closeHold
  generalize (b.holds.get r).deferred = ds
  generalize hb : ({ b with holds := b.holds.set r ⟨none, []⟩ } : BusInterposer) = c
  have key : ∀ (ds : List (Nat × Word)) (c : BusInterposer),
      ds.foldl (fun b x => b.enqueue ⟨.d, x.1, 1, some x.2, holdPurpose r, []⟩) c =
        { c with
          parts := (ds.foldl (fun b x => b.enqueue ⟨.d, x.1, 1, some x.2, holdPurpose r, []⟩) c).parts } := by
    intro ds
    induction ds with
    | nil => intro c; rfl
    | cons d ds ih => intro c; rw [List.foldl_cons, ih]; rfl
  rw [key ds c]
  subst hb
  rfl

/-- Of a hold whose deferred values ascend, `closeHold` appends the values as class (d) writes, in that order, and takes out
what was pending to their words (R16, R18). -/
theorem BusInterposer.closeHold_parts (b : BusInterposer) (r : Nat) (h : (b.holds.get r).Ordered) :
    let ds := (b.holds.get r).deferred
    (b.closeHold r).parts.map (fun q => (q.cls, q.offset, q.data)) =
      (b.parts.filter fun q => !(q.data.isSome && (ds.map Prod.fst).contains q.offset)).map
        (fun q => (q.cls, q.offset, q.data)) ++ ds.map fun x => (.d, x.1, some x.2) := by
  have key : ∀ (ds : List (Nat × Word)) (c : BusInterposer), ds.Pairwise (fun x y => x.1 < y.1) →
      (ds.foldl (fun b x => b.enqueue ⟨.d, x.1, 1, some x.2, holdPurpose r, []⟩) c).parts.map
          (fun q => (q.cls, q.offset, q.data)) =
        (c.parts.filter fun q => !(q.data.isSome && (ds.map Prod.fst).contains q.offset)).map
          (fun q => (q.cls, q.offset, q.data)) ++ ds.map fun x => (.d, x.1, some x.2) := by
    intro ds
    induction ds with
    | nil => intro c _; simp
    | cons d ds ih =>
      intro c hp
      obtain ⟨hd, hp⟩ := List.pairwise_cons.1 hp
      have hnot : (ds.map Prod.fst).contains d.1 = false := by
        simpa using fun (w : Word) (hw : (d.1, w) ∈ ds) => Nat.lt_irrefl _ (hd (d.1, w) hw)
      rw [List.foldl_cons, ih _ hp]
      simp only [BusInterposer.enqueue, PartReq.writesTo, List.filter_append, List.filter_filter, List.map_append,
        List.map_cons, List.filter_cons, List.filter_nil, Option.isSome_some, Bool.true_and, hnot, Bool.not_false, if_true,
        List.map_nil, List.append_assoc, List.cons_append, List.nil_append]
      congr 2
      refine List.filter_congr fun q _ => ?_
      rcases eq_or_ne q.offset d.1 with hq | hq
      · cases q.data <;> simp [hq]
      · simp [hq, Bool.and_comm]
  exact key _ { b with holds := b.holds.set r ⟨none, []⟩ } h.ascending

/-! ## Forwarded traffic and the arbiter -/

/-- `admitOffers` moves waiting transactions to the back of the accepted ones. -/
theorem BusInterposer.admit_frame (b : BusInterposer) :
    b.admitOffers = { b with accepted := b.admitOffers.accepted, offers := b.admitOffers.offers } ∧
      b.admitOffers.accepted ++ b.admitOffers.offers = b.accepted ++ b.offers := by
  refine ⟨rfl, ?_⟩
  simp [BusInterposer.admitOffers, List.append_assoc]

/-- `newHead` changes nothing but the waits of the head. -/
theorem BusInterposer.newHead_frame (b : BusInterposer) : b.newHead = { b with headWaits := b.newHead.headWaits } := by
  unfold BusInterposer.newHead
  split <;> rfl

/-- At a count of 4 the turn of (c) and (d) is the oldest one's; below it, that of a (c) where there is one, else the oldest
one's (R19, R20). -/
theorem BusInterposer.turnCD_cases (b : BusInterposer) (r : PartReq) :
    (bGrantLimit ≤ b.bGrants ∧ b.turnCD r = r) ∨
      (b.bGrants < bGrantLimit ∧
        (b.oldest .c = some (b.turnCD r) ∨ (b.oldest .c = none ∧ b.turnCD r = r))) := by
  unfold BusInterposer.turnCD
  split
  · exact .inl ⟨‹_›, rfl⟩
  · refine .inr ⟨Nat.lt_of_not_le ‹_›, ?_⟩
    cases h : b.oldest .c with
    | none => exact .inr ⟨rfl, rfl⟩
    | some q => exact .inl rfl

/-- What the arbiter grants stands among what waits, and the port is free (R19). -/
theorem BusInterposer.choice_spec (b : BusInterposer) (g : Grant) (h : b.choice = some g) :
    b.port = .idle ∧ (∀ r, g = .part r → r ∈ b.parts) ∧
      ∀ t, g = .forwarded t → b.accepted.head? = some t ∧ b.headWaits = [] ∧ ∀ r ∈ b.parts, r.cls ≠ .a := by
  have hmem : ∀ {cls r}, b.oldest cls = some r → r ∈ b.parts := fun h => List.mem_of_find?_eq_some h
  have hcd : ∀ {r}, b.oldestCD = some r → r ∈ b.parts := fun h => List.mem_of_find?_eq_some h
  have hno : b.oldest .a = none → ∀ r ∈ b.parts, r.cls ≠ .a := by
    intro h r hr hc
    have := List.find?_eq_none.mp h r hr
    simp [hc] at this
  have hhead : ∀ {t}, b.eligibleHead = some t → b.accepted.head? = some t ∧ b.headWaits = [] := by
    intro t h
    unfold BusInterposer.eligibleHead at h
    split at h
    · exact ⟨h, ‹_›⟩
    · cases h
  unfold BusInterposer.choice at h
  split at h
  · cases h
  · next hp =>
    refine ⟨by simpa using hp, ?_⟩
    split at h
    · cases h; exact ⟨fun r e => (by cases e; exact hmem ‹_›), fun t e => by cases e⟩
    · next ha hc hh =>
      split at h
      · cases h; exact ⟨fun r e => (by cases e; exact hcd ‹_›), fun t e => by cases e⟩
      · cases h
        exact ⟨fun r e => (by cases e), fun t e => by cases e; exact ⟨(hhead hh).1, (hhead hh).2, hno ha⟩⟩
    · next ha hc hh =>
      cases h
      exact ⟨fun r e => (by cases e), fun t e => by cases e; exact ⟨(hhead hh).1, (hhead hh).2, hno ha⟩⟩
    · next r ha hc hh =>
      cases h
      refine ⟨fun q e => ?_, fun t e => by cases e⟩
      cases e
      rcases b.turnCD_cases r with ⟨-, e⟩ | ⟨-, e | ⟨-, e⟩⟩
      · rw [e]; exact hcd hc
      · exact hmem e
      · rw [e]; exact hcd hc
    · cases h

/-! ## Nothing but production on the shelf side -/

theorem Shelf.OnlyProduces.refl (a : Shelf) : Shelf.OnlyProduces a a :=
  ⟨rfl, rfl, rfl, rfl, rfl, rfl, rfl, fun _ => rfl, rfl, rfl⟩

theorem Shelf.OnlyProduces.trans {a b c : Shelf} (h : Shelf.OnlyProduces a b) (k : Shelf.OnlyProduces b c) :
    Shelf.OnlyProduces a c :=
  ⟨k.winsel.trans h.winsel, k.offers.trans h.offers, k.accepted.trans h.accepted, k.headWaits.trans h.headWaits,
    k.port.trans h.port, k.bGrants.trans h.bGrants, k.answers.trans h.answers,
    fun r => (k.opened r).trans (h.opened r), k.producer.trans h.producer, k.consumer.trans h.consumer⟩

/-- A fold of operations that only produce only produces. -/
theorem Shelf.OnlyProduces.foldl {α : Type} (f : Shelf → α → Shelf) (hf : ∀ sh a, Shelf.OnlyProduces sh (f sh a))
    (l : List α) (sh : Shelf) : Shelf.OnlyProduces sh (l.foldl f sh) := by
  induction l generalizing sh with
  | nil => exact .refl sh
  | cons a l ih => exact (hf sh a).trans (ih _)

/-- A change of RW's own keeping, its ring indices apart, is no act on the bus. -/
theorem Shelf.OnlyProduces.ofRw (sh : Shelf) (rw : ReportWriter) (hp : rw.producer = sh.rw.producer)
    (hc : rw.consumer = sh.rw.consumer) : Shelf.OnlyProduces sh { sh with rw := rw } :=
  ⟨rfl, rfl, rfl, rfl, rfl, rfl, rfl, fun _ => rfl, hp, hc⟩

/-- A write of one of RW's words changes nothing of RW. -/
@[simp] theorem Shelf.writeWord_rw (sh : Shelf) (o : Nat) (w : Word) (p : Purpose) : (sh.writeWord o w p).rw = sh.rw := rfl

theorem Shelf.OnlyProduces.ofProduce (sh : Shelf) (r : PartReq) :
    Shelf.OnlyProduces sh { sh with bus := sh.bus.produce r } := by
  have h := sh.bus.produce_frame r
  exact
    { winsel := by rw [h]
      offers := by rw [h]
      accepted := by rw [h]
      headWaits := by rw [h]
      port := by rw [h]
      bGrants := by rw [h]
      answers := by rw [h]
      opened := sh.bus.produce_opened r
      producer := rfl
      consumer := rfl }

theorem Shelf.writeWord_onlyProduces (sh : Shelf) (o : Nat) (w : Word) (p : Purpose) :
    Shelf.OnlyProduces sh (sh.writeWord o w p) := Shelf.OnlyProduces.ofProduce sh _

/-! ## Reports -/

/-- A lost record is counted, and nothing of RW but the count changes. -/
theorem Shelf.dropOne_rw (sh : Shelf) :
    sh.dropOne.rw = { sh.rw with drops := min dropLimit (sh.rw.drops + 1) } := rfl

theorem Shelf.dropOne_onlyProduces (sh : Shelf) : Shelf.OnlyProduces sh sh.dropOne :=
  (Shelf.OnlyProduces.ofRw sh { sh.rw with drops := min dropLimit (sh.rw.drops + 1) } rfl rfl).trans
    (Shelf.writeWord_onlyProduces _ _ _ _)

/-- A fold of writes of words changes nothing of RW. -/
theorem Shelf.foldl_writeWord_rw {α : Type} (o : Shelf → α → Nat) (w : Shelf → α → Word) (p : Purpose) (l : List α)
    (sh : Shelf) : (l.foldl (fun sh a => sh.writeWord (o sh a) (w sh a) p) sh).rw = sh.rw := by
  induction l generalizing sh with
  | nil => rfl
  | cons a l ih => rw [List.foldl_cons, ih]; rfl

/-- A started record is in flight with its eight writes unanswered, and nothing else of RW changes. -/
theorem Shelf.startRecord_rw (sh : Shelf) (e : Event) :
    (sh.startRecord e).rw = { sh.rw with flight := some ⟨e, 8, false⟩ } := by
  unfold Shelf.startRecord
  exact Shelf.foldl_writeWord_rw _ _ _ _ _

theorem Shelf.startRecord_onlyProduces (sh : Shelf) (e : Event) : Shelf.OnlyProduces sh (sh.startRecord e) := by
  unfold Shelf.startRecord
  exact (Shelf.OnlyProduces.ofRw sh { sh.rw with flight := some ⟨e, 8, false⟩ } rfl rfl).trans
    (Shelf.OnlyProduces.foldl _ (fun sh i => Shelf.writeWord_onlyProduces _ _ _ _) _ _)

theorem Shelf.take_onlyProduces (l : List Event) (sh : Shelf) : Shelf.OnlyProduces sh (sh.take l) := by
  induction l generalizing sh with
  | nil => exact Shelf.OnlyProduces.ofRw sh { sh.rw with queue := [] } rfl rfl
  | cons e l ih =>
    unfold Shelf.take
    split
    · exact (Shelf.OnlyProduces.ofRw sh { sh.rw with queue := l } rfl rfl).trans (Shelf.startRecord_onlyProduces _ _)
    · exact (Shelf.dropOne_onlyProduces sh).trans (ih _)

theorem Shelf.takeNext_onlyProduces (sh : Shelf) : Shelf.OnlyProduces sh sh.takeNext := by
  unfold Shelf.takeNext
  split
  · exact .refl sh
  · exact Shelf.take_onlyProduces _ _

/-- A submission only produces part accesses (R173 to R175). -/
theorem Shelf.submit_onlyProduces (sh : Shelf) (e : Event) : Shelf.OnlyProduces sh (sh.submit e) := by
  unfold Shelf.submit
  split
  · exact (Shelf.OnlyProduces.ofRw sh { sh.rw with queue := sh.rw.queue ++ [e] } rfl rfl).trans
      (Shelf.takeNext_onlyProduces _)
  · exact Shelf.dropOne_onlyProduces sh

/-- Taking from a queue lowers no count of losses. -/
theorem Shelf.take_drops (l : List Event) (sh : Shelf) (h : sh.rw.drops ≤ dropLimit) :
    sh.rw.drops ≤ (sh.take l).rw.drops ∧ (sh.take l).rw.drops ≤ dropLimit := by
  induction l generalizing sh with
  | nil => exact ⟨Nat.le_refl _, h⟩
  | cons e l ih =>
    unfold Shelf.take
    split
    · rw [Shelf.startRecord_rw]; exact ⟨Nat.le_refl _, h⟩
    · have hd : sh.dropOne.rw.drops = min dropLimit (sh.rw.drops + 1) := by rw [Shelf.dropOne_rw]
      obtain ⟨h1, h2⟩ := ih sh.dropOne (by rw [hd]; exact Nat.min_le_left _ _)
      exact ⟨by omega, h2⟩

/-- An event of the queue that is taken stays in the queue, is in flight, or is a loss that the count shows. -/
theorem Shelf.take_submitted (a : Shelf) (l : List Event) (sh : Shelf) (e : Event) (he : e ∈ l)
    (h : a.rw.drops ≤ sh.rw.drops ∨ dropLimit ≤ sh.rw.drops) : Shelf.Submitted a (sh.take l) e := by
  induction l generalizing sh with
  | nil => cases he
  | cons x l ih =>
    unfold Shelf.take
    split
    · rcases List.mem_cons.mp he with rfl | he
      · exact .inr (.inl (by rw [Shelf.startRecord_rw]; rfl))
      · exact .inl (by rw [Shelf.startRecord_rw]; exact he)
    · have hd : sh.dropOne.rw.drops = min dropLimit (sh.rw.drops + 1) := by rw [Shelf.dropOne_rw]
      rcases List.mem_cons.mp he with rfl | he
      · obtain ⟨h1, h2⟩ := Shelf.take_drops l sh.dropOne (by rw [hd]; exact Nat.min_le_left _ _)
        rcases Nat.lt_or_ge (a.rw.drops) (sh.dropOne.take l).rw.drops with hlt | hge
        · exact .inr (.inr (.inl hlt))
        · exact .inr (.inr (.inr (by omega)))
      · exact ih sh.dropOne he (by omega)

/-- A submitted event waits, is in flight, or is a loss that the count shows (R173 to R175). -/
theorem Shelf.submit_submitted (sh : Shelf) (e : Event) : Shelf.Submitted sh (sh.submit e) e := by
  unfold Shelf.submit
  split
  · unfold Shelf.takeNext
    split
    · exact .inl (by simp)
    · exact Shelf.take_submitted sh _ _ e (by simp) (.inl (Nat.le_refl _))
  · unfold Shelf.Submitted
    rw [Shelf.dropOne_rw]
    dsimp only
    omega

/-! ## Status updates -/

/-- A status update only produces part accesses (R179). -/
theorem Shelf.statusUpdate_onlyProduces (sh : Shelf) (r : Nat) (ws : List Word) :
    Shelf.OnlyProduces sh (sh.statusUpdate r ws) := by
  unfold Shelf.statusUpdate
  set book := sh.rw.books.get r
  set v := withSequence (book.seq + 1) ws
  obtain ⟨h, ho⟩ := BusInterposer.foldl_produce
    (fun (b : BusInterposer) i =>
      if book.writes v i then b.produce ⟨.d, holdBase r + 4 * i, 1, some (v.getD i 0), .status, []⟩ else b)
    (fun b i => by
      split
      · exact ⟨b.produce_frame _, b.produce_opened _⟩
      · exact ⟨rfl, fun _ => rfl⟩) (List.range 16) sh.bus
  exact
    { winsel := by dsimp only; rw [h]
      offers := by dsimp only; rw [h]
      accepted := by dsimp only; rw [h]
      headWaits := by dsimp only; rw [h]
      port := by dsimp only; rw [h]
      bGrants := by dsimp only; rw [h]
      answers := by dsimp only; rw [h]
      opened := ho
      producer := rfl
      consumer := rfl }

/-- A status update leaves the events and the count of losses as they were. -/
theorem Shelf.statusUpdate_rw (sh : Shelf) (r : Nat) (ws : List Word) :
    (sh.statusUpdate r ws).rw = { sh.rw with books := (sh.statusUpdate r ws).rw.books } := rfl

theorem State.jobUpdate_onlyProduces (s : State) (sh : Shelf) (j : Nat) : Shelf.OnlyProduces sh (s.jobUpdate sh j) := by
  unfold State.jobUpdate
  split
  · exact Shelf.statusUpdate_onlyProduces _ _ _
  · split
    · split
      · exact Shelf.statusUpdate_onlyProduces _ _ _
      · exact .refl sh
    · exact .refl sh

theorem State.jobUpdate_rw (s : State) (sh : Shelf) (j : Nat) :
    (s.jobUpdate sh j).rw = { sh.rw with books := (s.jobUpdate sh j).rw.books } := by
  unfold State.jobUpdate
  split
  · rfl
  · split
    · split <;> rfl
    · rfl

/-- The end of an event clears its marks, produces its status updates, and does nothing else (R160, R179, R180). -/
theorem State.finish_spec (s before : State) :
    s.finish before = { s with shelf := (s.finish before).shelf, marks := Marks.none } ∧
      Shelf.OnlyProduces s.shelf (s.finish before).shelf ∧
      (s.finish before).shelf.rw = { s.shelf.rw with books := (s.finish before).shelf.rw.books } := by
  refine ⟨rfl, ?_, ?_⟩
  · unfold State.finish
    refine Shelf.OnlyProduces.trans ?_ (Shelf.OnlyProduces.foldl s.jobUpdate s.jobUpdate_onlyProduces _ _)
    split
    · exact .refl _
    · exact Shelf.statusUpdate_onlyProduces _ _ _
  · have key : ∀ (l : List Nat) (sh : Shelf),
        (l.foldl s.jobUpdate sh).rw = { sh.rw with books := (l.foldl s.jobUpdate sh).rw.books } := by
      intro l
      induction l with
      | nil => intro sh; rfl
      | cons j l ih => intro sh; rw [List.foldl_cons, ih, State.jobUpdate_rw]
    unfold State.finish
    dsimp only
    rw [key]
    split <;> rfl

/-- An event that takes place answers a next state: its effect, finished. -/
theorem occur_spec (s t : State) (f : State → State) (h : occur s f = .next t) : t = (f s).finish s := by
  simpa [occur] using h.symm

/-- A guarded command answers a next state only where its operands lie in their ranges. -/
theorem guarded_spec (i : Instr) (r : Result) (t : State) (h : guarded i r = .next t) :
    i.wellFormed = true ∧ r = .next t := by
  unfold guarded at h
  split at h
  · exact ⟨‹_›, h⟩
  · cases h

/-! ## Reports and writes on the device -/

/-- A report submits its event, only produces, and changes nothing but the shelf side (R173). -/
theorem State.report_spec (s : State) (e : Event) :
    s.report e = { s with shelf := (s.report e).shelf } ∧ Shelf.OnlyProduces s.shelf (s.report e).shelf ∧
      Shelf.Submitted s.shelf (s.report e).shelf e :=
  ⟨rfl, Shelf.submit_onlyProduces _ _, Shelf.submit_submitted _ _⟩

theorem State.reportAll_onlyProduces (s : State) (es : List Event) :
    Shelf.OnlyProduces s.shelf (s.reportAll es).shelf :=
  Shelf.OnlyProduces.foldl Shelf.submit Shelf.submit_onlyProduces es s.shelf

theorem State.produce_onlyProduces (s : State) (r : PartReq) : Shelf.OnlyProduces s.shelf (s.produce r).shelf :=
  Shelf.OnlyProduces.ofProduce _ _

theorem State.writeCell_onlyProduces (s : State) (cls : ReqClass) (e k : Nat) (w : Word) (p : Purpose) :
    Shelf.OnlyProduces s.shelf (s.writeCell cls e k w p).shelf := s.produce_onlyProduces _

/-- A write to a word that no record with a hold contains is pending (R16, R17). -/
theorem State.writeCell_writes (s : State) (cls : ReqClass) (e k : Nat) (w : Word) (p : Purpose)
    (h : holdOf (cellOffset e k) = none) : (s.writeCell cls e k w p).shelf.Writes cls (cellOffset e k) w p := by
  have ho : s.shelf.bus.openHold (cellOffset e k) = none := by simp [BusInterposer.openHold, h]
  unfold Shelf.Writes State.writeCell State.produce BusInterposer.produce
  simp only [ho, BusInterposer.enqueue]
  exact ⟨_, List.mem_append_right _ (List.mem_singleton.mpr rfl), rfl, rfl, rfl, rfl⟩

/-! ## The grid, the gates and the links -/

/-- Quarantine sets the entry and reports it; nothing else changes. -/
theorem State.quarantine_frame (s : State) (e k : Nat) (c : Cause) (key : Option JobKey) :
    s.quarantine e k c key =
      { s with
        shelf := (s.quarantine e k c key).shelf
        cg.entries := s.cg.entries.set (gridIndex e k) ⟨.quarantined, none, none, false, false⟩ } := rfl

/-- A RESERVED entry passes to RAMPING; any other is as it was (R43). -/
theorem State.startRamping_spec (s : State) (e k : Nat) :
    s.startRamping e k = s ∨
      ((s.grid e k).state = .reserved ∧ s.startRamping e k = s.setGrid e k { s.grid e k with state := .ramping }) := by
  unfold State.startRamping
  split
  · exact .inr ⟨‹_›, rfl⟩
  · exact .inl rfl

/-- A release frees the gate that the entry holds, and changes nothing else (R103). -/
theorem State.releaseGate_spec (s : State) (p : Nat) (x : Participation) :
    (s.releaseGate p x = s ∧ ∀ h, s.gate x.watched.1 x.watched.2 = some h → h.holder ≠ p) ∨
      (s.releaseGate p x = s.setGate x.watched.1 x.watched.2 none ∧
        ∃ h, s.gate x.watched.1 x.watched.2 = some h ∧ h.holder = p) := by
  unfold State.releaseGate
  split
  · next h hg =>
    split
    · exact .inr ⟨rfl, h, hg, ‹_›⟩
    · refine .inl ⟨rfl, fun k hk => ?_⟩
      rw [hg] at hk
      cases hk
      assumption
  · next hg => exact .inl ⟨rfl, fun k hk => by rw [hg] at hk; cases hk⟩

theorem State.releaseGate_frame (s : State) (p : Nat) (x : Participation) :
    s.releaseGate p x = { s with gates := (s.releaseGate p x).gates } := by
  rcases s.releaseGate_spec p x with ⟨h, -⟩ | ⟨h, -⟩
  · rw [h]
  · rw [h]; rfl

/-- A restart moves the start of the hold limit of the gate that the entry holds, and changes nothing else (R104). -/
theorem State.restartGate_spec (s : State) (p : Nat) (x : Participation) :
    s.restartGate p x = s ∨
      ∃ h, s.gate x.watched.1 x.watched.2 = some h ∧ h.holder = p ∧
        s.restartGate p x = s.setGate x.watched.1 x.watched.2 (some { h with since := s.now }) := by
  unfold State.restartGate
  split
  · next h hg =>
    split
    · exact .inr ⟨h, hg, ‹_›, rfl⟩
    · exact .inl rfl
  · exact .inl rfl

theorem State.restartGate_frame (s : State) (p : Nat) (x : Participation) :
    s.restartGate p x = { s with gates := (s.restartGate p x).gates } := by
  rcases s.restartGate_spec p x with h | ⟨h, -, -, e⟩
  · rw [h]
  · rw [e]; rfl

/-- A frame handed to a link joins its queue, is lost with a report, or is lost (R169). -/
theorem State.send_spec (s : State) (d : Nat) (f : PathFrame) :
    ((s.link d).state ≠ .up ∧ s.send d f = s) ∨
    ((s.link d).state = .up ∧ (s.link d).queue.length < txqLimit ∧
      s.send d f = s.setLink d { s.link d with queue := (s.link d).queue ++ [.path f] }) ∨
    ((s.link d).state = .up ∧ txqLimit ≤ (s.link d).queue.length ∧ ∃ ev, s.send d f = s.report ev ∧ ev.kind = .txqFull ∧
      ev.egress = some d ∧ ev.key = some f.key) := by
  unfold State.send
  dsimp only
  split
  · split
    · exact .inr (.inl ⟨‹_›, ‹_›, rfl⟩)
    · exact .inr (.inr ⟨‹_›, Nat.le_of_not_lt ‹_›, _, rfl, rfl, rfl, rfl⟩)
  · exact .inl ⟨‹_›, rfl⟩

/-- A frame handed to a link changes nothing but the links and the shelf side. -/
theorem State.send_frame (s : State) (d : Nat) (f : PathFrame) :
    s.send d f = { s with shelf := (s.send d f).shelf, slc.links := (s.send d f).slc.links } ∧
      Shelf.OnlyProduces s.shelf (s.send d f).shelf := by
  rcases s.send_spec d f with ⟨-, h⟩ | ⟨-, -, h⟩ | ⟨-, -, ev, h, -⟩
  · rw [h]; exact ⟨rfl, .refl _⟩
  · rw [h]; exact ⟨rfl, .refl _⟩
  · rw [h]; exact ⟨rfl, Shelf.submit_onlyProduces _ _⟩

/-- A frame of an entry's job changes nothing but the links, the shelf side and the gate the entry holds. -/
theorem State.handFrame_frame (s : State) (p : Nat) (x : Participation) (d : Nat) (f : PathFrame) :
    s.handFrame p x d f =
      { s with
        shelf := (s.handFrame p x d f).shelf, gates := (s.handFrame p x d f).gates
        slc.links := (s.handFrame p x d f).slc.links } ∧
      Shelf.OnlyProduces s.shelf (s.handFrame p x d f).shelf := by
  unfold State.handFrame
  obtain ⟨h1, h2⟩ := s.send_frame d f
  refine ⟨?_, by rw [State.restartGate_frame]; exact h2⟩
  rw [State.restartGate_frame, h1]

/-! ## Participations -/

/-- A freed participation is gone with its gate; nothing else changes (R79). -/
theorem State.freeParticipation_frame (s : State) (p : Nat) :
    s.freeParticipation p =
      { s with pa.entries := s.pa.entries.set p none, gates := (s.freeParticipation p).gates } ∨
      (s.entry p = none ∧ s.freeParticipation p = s) := by
  unfold State.freeParticipation
  cases h : s.entry p with
  | none => exact .inr ⟨rfl, rfl⟩
  | some x =>
    left
    dsimp only
    rw [State.releaseGate_frame]
    rfl

/-- A participation that becomes closing: its entry, its gate, and its closing write; nothing else changes (R79). -/
theorem State.closeParticipation_frame (s : State) (p : Nat) (x : Participation) (w : Word) :
    s.closeParticipation p x w =
      { s with
        shelf := (s.closeParticipation p x w).shelf, gates := (s.closeParticipation p x w).gates
        pa.entries := s.pa.entries.set p
          (some { x with closing := true, measurement := none, ownRecord := none, heldReport := none }) } ∧
      Shelf.OnlyProduces s.shelf (s.closeParticipation p x w).shelf := by
  unfold State.closeParticipation
  rw [State.releaseGate_frame]
  exact ⟨rfl, State.writeCell_onlyProduces _ _ _ _ _ _⟩

/-! ## The start of a LOCAL job -/

/-- A LOCAL job's start changes the shelf side, the grid's entries, the next generations, the participations, the jobs and
the marks alone. -/
theorem State.createLocal_frame (s : State) (r : LocalRequest) :
    s.createLocal r = { s with
      shelf := (s.createLocal r).shelf, cg.entries := (s.createLocal r).cg.entries
      cfg.nextGen := (s.createLocal r).cfg.nextGen, pa.entries := (s.createLocal r).pa.entries
      jobs := (s.createLocal r).jobs, marks := (s.createLocal r).marks } := by
  simp only [State.createLocal, State.takeNumber, State.setEntry, State.reserve, State.setGrid, State.setJob, State.touch,
    State.report]

theorem State.createLocal_grid (s : State) (r : LocalRequest) : (s.createLocal r).grid =
    (s.setGrid r.egress r.slot ⟨.reserved, some s.freeEntry, none, false, false⟩).grid := rfl

theorem State.createLocal_entry (s : State) (r : LocalRequest) :
    (s.createLocal r).entry = (s.setEntry s.freeEntry (some (s.localEntry r))).entry := rfl

theorem State.createLocal_job (s : State) (r : LocalRequest) :
    (s.createLocal r).job = (s.setJob s.freeJob (some (s.localJob r))).job := rfl

/-- All that making a LOCAL job does, where a number and an entry are free. -/
theorem State.createLocal_makes (s : State) (r : LocalRequest) (hj : s.freeJob < 8) (hp : s.freeEntry < 32)
    (he : r.egress ≤ 4) (hk : r.slot < 96) :
    s.MakesLocal (s.createLocal r) r.kind r.egress r.slot r.source r.target r.start (s.localJob r) (s.localEntry r) where
  entry := ⟨by rw [createLocal_entry]; exact s.entry_setEntry_self _ _ hp, rfl⟩
  job := ⟨by rw [createLocal_job]; exact s.job_setJob_self _ _ hj, rfl⟩
  cell := by rw [createLocal_grid]; exact s.grid_setGrid_self _ _ _ he hk
  number := rfl
  otherJobs i hi := by rw [createLocal_job]; exact s.job_setJob_ne _ _ _ hi
  otherEntries q hq := by rw [createLocal_entry]; exact s.entry_setEntry_ne _ _ _ hq
  otherCells c k _ hk' h := by rw [createLocal_grid]; exact s.grid_setGrid_ne _ _ _ _ _ hk hk' h
  frame := s.createLocal_frame r
  produces := Shelf.submit_onlyProduces s.shelf _

end Sys2Proof.Machine
end

