-- ==== Sys2Proof/Laws/Bus.lean ====
section
/-! SUPPORT. What the judgement of a burst's beats, a reset on the port, and the answer of a write that replaced others can do,
said once each. -/

namespace Sys2Proof.Machine

/-- A beat judged at the grant keeps its address and what the master wrote, and is judged unless it waits (R6). -/
theorem State.grantBeat_beat (s : State) (m : BitVec 4) (after : Bool) (a : Word) (b : WriteBeat) :
    (s.grantBeat m after a b).2.addr = a ∧ (s.grantBeat m after a b).2.written = b ∧
      (s.grantBeat m after a b).2.checked = s.needsCheck a ∧
      ((s.grantBeat m after a b).2.out = none ↔ s.beatWaits after a b = true) := by
  unfold State.grantBeat
  split <;> simp_all

/-- The judgement at the grant keeps the beats in order, with their addresses and what the master wrote (R6). -/
theorem State.grantBeats_beats (m : BitVec 4) (l : List (Word × WriteBeat)) :
    ∀ (s : State) (after : Bool), (s.grantBeats m after l).2.map FwdBeat.addr = l.map Prod.fst ∧
      (s.grantBeats m after l).2.map FwdBeat.written = l.map Prod.snd := by
  induction l with
  | nil => exact fun _ _ => ⟨rfl, rfl⟩
  | cons x rest ih =>
    obtain ⟨a, b⟩ := x
    intro s after
    have h := s.grantBeat_beat m after a b
    have k := ih (s.grantBeat m after a b).1 (after || (s.grantBeat m after a b).2.out.isNone)
    exact ⟨by simp only [State.grantBeats, List.map_cons, h.1, k.1], by simp only [State.grantBeats, List.map_cons, h.2.1, k.2]⟩

/-- The judgement at the check read's answer keeps the beats in order, leaves those judged before, and judges every other (R6). -/
theorem State.checkBeats_beats (m : BitVec 4) (l : List FwdBeat) :
    ∀ (s : State) (ws : Option (List Word)), (s.checkBeats m l ws).2.map FwdBeat.addr = l.map FwdBeat.addr ∧
      (s.checkBeats m l ws).2.map FwdBeat.written = l.map FwdBeat.written ∧
      (∀ f ∈ (s.checkBeats m l ws).2, f.out.isSome = true) ∧
      ∀ f ∈ l, f.out.isSome = true → f ∈ (s.checkBeats m l ws).2 := by
  induction l with
  | nil => exact fun _ _ => ⟨rfl, rfl, fun _ h => absurd h List.not_mem_nil, fun _ h => absurd h List.not_mem_nil⟩
  | cons f rest ih =>
    intro s ws
    unfold State.checkBeats
    cases hf : f.out with
    | some o =>
      have k := ih s (if f.checked = true then ws.map List.tail else ws)
      refine ⟨by simp only [List.map_cons, k.1], by simp only [List.map_cons, k.2.1], fun g hg => ?_, fun g hg ho => ?_⟩
      · rcases List.mem_cons.mp hg with rfl | hg
        · rw [hf]; rfl
        · exact k.2.2.1 g hg
      · rcases List.mem_cons.mp hg with rfl | hg
        · exact List.mem_cons_self
        · exact List.mem_cons_of_mem _ (k.2.2.2 g hg ho)
    | none =>
      have k := ih (s.judgeWaiting m f (if f.checked = true then ws.bind List.head? else none)).state
        (if f.checked = true then ws.map List.tail else ws)
      refine ⟨by simp only [List.map_cons, k.1], by simp only [List.map_cons, k.2.1], fun g hg => ?_, fun g hg ho => ?_⟩
      · rcases List.mem_cons.mp hg with rfl | hg
        · rfl
        · exact k.2.2.1 g hg
      · rcases List.mem_cons.mp hg with rfl | hg
        · rw [hf] at ho; cases ho
        · exact List.mem_cons_of_mem _ (k.2.2.2 g hg ho)

/-- After a reset begins no forwarded transaction holds the port: it is free, or a write runs out its beats (R23). -/
theorem Port.resetBegins_cases (p : Port) (n : Nat) :
    p.resetBegins n = .idle ∨ ∃ t, p.resetBegins n = .ending t := by
  cases p <;> simp [Port.resetBegins]

/-- A reset's port is no forwarded transaction's (R23). -/
theorem Port.resetBegins_notForwarded (p : Port) (n : Nat) : (p.resetBegins n).isForwarded = false := by
  rcases p.resetBegins_cases n with h | ⟨t, h⟩ <;> rw [h] <;> rfl

/-- The answer to a commit write ends its job or changes nothing (R147, R148). -/
theorem State.commitJobAnswered_cases (s : State) (key : JobKey) (ok : Bool) :
    s.commitJobAnswered key ok = s ∨
      ∃ x e, s.jobOfKey key = some x ∧ x.phase = .committing ∧ s.commitJobAnswered key ok = s.endJob x.number e := by
  unfold State.commitJobAnswered
  split
  · exact .inl rfl
  · next x hx =>
    split
    · exact .inl rfl
    · next hp =>
      have hp : x.phase = .committing := Decidable.not_not.mp hp
      split
      · exact .inr ⟨x, _, hx, hp, rfl⟩
      · split
        · exact .inl rfl
        · exact .inr ⟨x, _, hx, hp, rfl⟩

/-- The answer to a restore write ends its job or changes nothing (R152). -/
theorem State.restoreJobAnswered_cases (s : State) (key : JobKey) :
    s.restoreJobAnswered key = s ∨
      ∃ x e, s.jobOfKey key = some x ∧ x.entry = none ∧ s.restoreJobAnswered key = s.endJob x.number e := by
  unfold State.restoreJobAnswered
  split
  · exact .inl rfl
  · next x hx =>
    split
    · next he => exact .inr ⟨x, _, hx, Option.isNone_iff_eq_none.mp he, rfl⟩
    · exact .inl rfl

/-- A frame is matched only by what its key fits (R82). -/
theorem State.matchFrame_fits (s : State) (d : Nat) (f : PathFrame) (h : s.matchFrame d f ≠ .noMatch) :
    s.keyFits f.key = true := by
  unfold State.matchFrame at h
  unfold State.keyFits
  by_contra hn
  simp only [Bool.or_eq_true, not_or, Bool.not_eq_true] at hn
  obtain ⟨hj, he⟩ := hn
  have he : s.entryOfKey f.key Role.isTransitOrTail = none := Option.isNone_iff_eq_none.mp (by simpa using he)
  have hj : (s.jobOfKey f.key).filter Job.isPath = none := by
    cases hx : s.jobOfKey f.key with
    | none => rfl
    | some x => rw [hx] at hj; simp at hj; simp [Option.filter, hj]
  simp [he, hj, State.keyFits] at h
  cases hx : s.jobOfKey f.key with
  | none => simp [hx] at h
  | some x => rw [hx] at h hj; simp [Option.filter] at hj; simp [hj] at h

end Sys2Proof.Machine
end

