-- ==== Sys2Proof/Laws/PerInstr.lean ====
section
/-! SUPPORT. Laws of every command as syntax, one lemma for each constructor of `Instr`. Family `FrameLink`: a well-formed
path frame arrives on the link of a line degree 1..4, and its counts lie in the ranges of R164. -/

namespace Sys2Proof.Laws

theorem isLineDegree_range {d : Nat} (h : isLineDegree d = true) : 1 ≤ d ∧ d ≤ 4 := by
  simp only [isLineDegree, Bool.and_eq_true, decide_eq_true_eq] at h
  exact h

/-- A well-formed path frame arrives on a link 1..4 with its counts in range (R80, R164). -/
def FrameLink.Statement (i : Instr) : Prop :=
  ∀ d f, i.frame = some (d, f) → i.wellFormed = true → (1 ≤ d ∧ d ≤ 4) ∧ (Frame.path f).CountsInRange

theorem FrameLink.upstreamTransaction : ∀ x0, FrameLink.Statement (.upstreamTransaction x0) := by
  intro x0 d f h; cases h

theorem FrameLink.forwardedWriteGrant : FrameLink.Statement .forwardedWriteGrant := by
  intro d f h; cases h

theorem FrameLink.checkReadAnswer : ∀ x0, FrameLink.Statement (.checkReadAnswer x0) := by
  intro x0 d f h; cases h

theorem FrameLink.forwardedReadGrant : FrameLink.Statement .forwardedReadGrant := by
  intro d f h; cases h

theorem FrameLink.forwardedTransactionComplete : ∀ x0 x1, FrameLink.Statement (.forwardedTransactionComplete x0 x1) := by
  intro x0 x1 d f h; cases h

theorem FrameLink.partAccessGrant : FrameLink.Statement .partAccessGrant := by
  intro d f h; cases h

theorem FrameLink.readHoldExpiry : ∀ x0, FrameLink.Statement (.readHoldExpiry x0) := by
  intro x0 d f h; cases h

theorem FrameLink.powerOnReset : FrameLink.Statement .powerOnReset := by
  intro d f h; cases h

theorem FrameLink.resetnAsserted : FrameLink.Statement .resetnAsserted := by
  intro d f h; cases h

theorem FrameLink.resetEnd : ∀ x0, FrameLink.Statement (.resetEnd x0) := by
  intro x0 d f h; cases h

theorem FrameLink.producerWordReadAnswer : ∀ x0, FrameLink.Statement (.producerWordReadAnswer x0) := by
  intro x0 d f h; cases h

theorem FrameLink.adoptionCellReadAnswer : ∀ x0, FrameLink.Statement (.adoptionCellReadAnswer x0) := by
  intro x0 d f h; cases h

theorem FrameLink.adoptionSettleDeadline : ∀ x0 x1, FrameLink.Statement (.adoptionSettleDeadline x0 x1) := by
  intro x0 x1 d f h; cases h

theorem FrameLink.entryExpired : ∀ x0 x1 x2, FrameLink.Statement (.entryExpired x0 x1 x2) := by
  intro x0 x1 x2 d f h; cases h

theorem FrameLink.measurementDeadline : ∀ x0, FrameLink.Statement (.measurementDeadline x0) := by
  intro x0 d f h; cases h

theorem FrameLink.driftWatchExpiry : ∀ x0, FrameLink.Statement (.driftWatchExpiry x0) := by
  intro x0 d f h; cases h

theorem FrameLink.intakeCellReadAnswer : ∀ x0, FrameLink.Statement (.intakeCellReadAnswer x0) := by
  intro x0 d f h; cases h

theorem FrameLink.intakeSettleDeadline : ∀ x0 x1, FrameLink.Statement (.intakeSettleDeadline x0 x1) := by
  intro x0 x1 d f h; cases h

theorem FrameLink.orderLowerReadAnswer : ∀ x0, FrameLink.Statement (.orderLowerReadAnswer x0) := by
  intro x0 d f h; cases h

theorem FrameLink.orderUpperReadError : FrameLink.Statement .orderUpperReadError := by
  intro d f h; cases h

theorem FrameLink.badKind : ∀ x0, FrameLink.Statement (.badKind x0) := by
  intro x0 d f h; cases h

theorem FrameLink.turnUp : ∀ x0, FrameLink.Statement (.turnUp x0) := by
  intro x0 d f h; cases h

theorem FrameLink.suspend : ∀ x0, FrameLink.Statement (.suspend x0) := by
  intro x0 d f h; cases h

theorem FrameLink.resume : ∀ x0, FrameLink.Statement (.resume x0) := by
  intro x0 d f h; cases h

theorem FrameLink.abort : ∀ x0, FrameLink.Statement (.abort x0) := by
  intro x0 d f h; cases h

theorem FrameLink.release : ∀ x0, FrameLink.Statement (.release x0) := by
  intro x0 d f h; cases h

theorem FrameLink.clearWatch : ∀ x0, FrameLink.Statement (.clearWatch x0) := by
  intro x0 d f h; cases h

theorem FrameLink.loadProfile : ∀ x0, FrameLink.Statement (.loadProfile x0) := by
  intro x0 d f h; cases h

theorem FrameLink.loadTable : ∀ x0, FrameLink.Statement (.loadTable x0) := by
  intro x0 d f h; cases h

theorem FrameLink.setNode : ∀ x0, FrameLink.Statement (.setNode x0) := by
  intro x0 d f h; cases h

theorem FrameLink.badFrame : ∀ x0 x1, FrameLink.Statement (.badFrame x0 x1) := by
  intro x0 x1 d f h; cases h

theorem FrameLink.alive : ∀ x0 x1, FrameLink.Statement (.alive x0 x1) := by
  intro x0 x1 d f h; cases h

theorem FrameLink.claim : ∀ x0 x1 x2 x3, FrameLink.Statement (.claim x0 x1 x2 x3) := by
  intro x0 x1 x2 x3 d f h w
  cases h
  simp only [Instr.wellFormed, ClaimBody.wellFormed, Bool.and_eq_true, decide_eq_true_eq] at w
  exact ⟨isLineDegree_range w.1, w.2.1.1, w.2.1.2, w.2.2⟩

theorem FrameLink.confirm : ∀ x0 x1 x2 x3, FrameLink.Statement (.confirm x0 x1 x2 x3) := by
  intro x0 x1 x2 x3 d f h w
  cases h
  simp only [Instr.wellFormed, Bool.and_eq_true, decide_eq_true_eq] at w
  exact ⟨isLineDegree_range w.1, w.2⟩

theorem FrameLink.refuse : ∀ x0 x1 x2 x3 x4, FrameLink.Statement (.refuse x0 x1 x2 x3 x4) := by
  intro x0 x1 x2 x3 x4 d f h w
  cases h
  exact ⟨isLineDegree_range w, trivial⟩

theorem FrameLink.intent : ∀ x0 x1 x2 x3 x4, FrameLink.Statement (.intent x0 x1 x2 x3 x4) := by
  intro x0 x1 x2 x3 x4 d f h w
  cases h
  exact ⟨isLineDegree_range w, trivial⟩

theorem FrameLink.ready : ∀ x0 x1 x2, FrameLink.Statement (.ready x0 x1 x2) := by
  intro x0 x1 x2 d f h w
  cases h
  exact ⟨isLineDegree_range w, trivial⟩

theorem FrameLink.busy : ∀ x0 x1 x2 x3, FrameLink.Statement (.busy x0 x1 x2 x3) := by
  intro x0 x1 x2 x3 d f h w
  cases h
  exact ⟨isLineDegree_range w, trivial⟩

theorem FrameLink.measure : ∀ x0 x1 x2 x3 x4, FrameLink.Statement (.measure x0 x1 x2 x3 x4) := by
  intro x0 x1 x2 x3 x4 d f h w
  cases h
  exact ⟨isLineDegree_range w, trivial⟩

theorem FrameLink.report : ∀ x0 x1 x2 x3, FrameLink.Statement (.report x0 x1 x2 x3) := by
  intro x0 x1 x2 x3 d f h w
  cases h
  simp only [Instr.wellFormed, Bool.and_eq_true, decide_eq_true_eq] at w
  exact ⟨isLineDegree_range w.1, w.2⟩

theorem FrameLink.stepEnd : ∀ x0 x1 x2 x3, FrameLink.Statement (.stepEnd x0 x1 x2 x3) := by
  intro x0 x1 x2 x3 d f h w
  cases h
  exact ⟨isLineDegree_range w, trivial⟩

theorem FrameLink.commit : ∀ x0 x1 x2, FrameLink.Statement (.commit x0 x1 x2) := by
  intro x0 x1 x2 d f h w
  cases h
  exact ⟨isLineDegree_range w, trivial⟩

theorem FrameLink.committed : ∀ x0 x1 x2, FrameLink.Statement (.committed x0 x1 x2) := by
  intro x0 x1 x2 d f h w
  cases h
  exact ⟨isLineDegree_range w, trivial⟩

theorem FrameLink.abortFrame : ∀ x0 x1 x2 x3, FrameLink.Statement (.abortFrame x0 x1 x2 x3) := by
  intro x0 x1 x2 x3 d f h w
  cases h
  exact ⟨isLineDegree_range w, trivial⟩

theorem FrameLink.alarm : ∀ x0 x1 x2 x3 x4, FrameLink.Statement (.alarm x0 x1 x2 x3 x4) := by
  intro x0 x1 x2 x3 x4 d f h w
  cases h
  exact ⟨isLineDegree_range w, trivial⟩

theorem FrameLink.keep : ∀ x0 x1 x2, FrameLink.Statement (.keep x0 x1 x2) := by
  intro x0 x1 x2 d f h w
  cases h
  exact ⟨isLineDegree_range w, trivial⟩

theorem FrameLink.livenessExpiry : ∀ x0, FrameLink.Statement (.livenessExpiry x0) := by
  intro x0 d f h; cases h

theorem FrameLink.aliveTimerExpiry : ∀ x0, FrameLink.Statement (.aliveTimerExpiry x0) := by
  intro x0 d f h; cases h

theorem FrameLink.freshPeriodEnd : FrameLink.Statement .freshPeriodEnd := by
  intro d f h; cases h

theorem FrameLink.frameSent : ∀ x0, FrameLink.Statement (.frameSent x0) := by
  intro x0 d f h; cases h

theorem FrameLink.orphanTimerExpiry : ∀ x0, FrameLink.Statement (.orphanTimerExpiry x0) := by
  intro x0 d f h; cases h

theorem FrameLink.keepTimerExpiry : ∀ x0, FrameLink.Statement (.keepTimerExpiry x0) := by
  intro x0 d f h; cases h

theorem FrameLink.commitReturnExpiry : FrameLink.Statement .commitReturnExpiry := by
  intro d f h; cases h

theorem FrameLink.gateHoldLimitExpiry : ∀ x0 x1, FrameLink.Statement (.gateHoldLimitExpiry x0 x1) := by
  intro x0 x1 d f h; cases h

theorem FrameLink.confirmWindowExpiry : ∀ x0, FrameLink.Statement (.confirmWindowExpiry x0) := by
  intro x0 d f h; cases h

theorem FrameLink.readyBusyWindowExpiry : ∀ x0, FrameLink.Statement (.readyBusyWindowExpiry x0) := by
  intro x0 d f h; cases h

theorem FrameLink.reportWindowExpiry : ∀ x0, FrameLink.Statement (.reportWindowExpiry x0) := by
  intro x0 d f h; cases h

theorem FrameLink.committedWindowExpiry : ∀ x0, FrameLink.Statement (.committedWindowExpiry x0) := by
  intro x0 d f h; cases h

theorem FrameLink.settleTimerExpiry : ∀ x0, FrameLink.Statement (.settleTimerExpiry x0) := by
  intro x0 d f h; cases h

theorem FrameLink.retryDelayEnd : ∀ x0, FrameLink.Statement (.retryDelayEnd x0) := by
  intro x0 d f h; cases h

theorem FrameLink.remeasureWaitEnd : ∀ x0, FrameLink.Statement (.remeasureWaitEnd x0) := by
  intro x0 d f h; cases h

theorem FrameLink.unwindTimerExpiry : ∀ x0, FrameLink.Statement (.unwindTimerExpiry x0) := by
  intro x0 d f h; cases h

theorem FrameLink.blockWriteAnswer : ∀ x0, FrameLink.Statement (.blockWriteAnswer x0) := by
  intro x0 d f h; cases h

theorem FrameLink.stepWriteAnswer : ∀ x0, FrameLink.Statement (.stepWriteAnswer x0) := by
  intro x0 d f h; cases h

theorem FrameLink.routeWriteAnswer : ∀ x0, FrameLink.Statement (.routeWriteAnswer x0) := by
  intro x0 d f h; cases h

theorem FrameLink.commitWriteAnswer : ∀ x0, FrameLink.Statement (.commitWriteAnswer x0) := by
  intro x0 d f h; cases h

theorem FrameLink.restoreWriteAnswer : ∀ x0, FrameLink.Statement (.restoreWriteAnswer x0) := by
  intro x0 d f h; cases h

theorem FrameLink.reportRecordWriteAnswer : ∀ x0, FrameLink.Statement (.reportRecordWriteAnswer x0) := by
  intro x0 d f h; cases h

theorem FrameLink.reportHeaderWriteAnswer : ∀ x0, FrameLink.Statement (.reportHeaderWriteAnswer x0) := by
  intro x0 d f h; cases h

theorem FrameLink.statusWriteAnswer : ∀ x0, FrameLink.Statement (.statusWriteAnswer x0) := by
  intro x0 d f h; cases h

end Sys2Proof.Laws
end

