-- ==== Sys2Proof/Tests/Slice0.lean ====
section
/-! SUPPORT. Tests. Three kinds: the manual's own figures and worked examples against the model (each cites the section the
expected value comes from); terms outside their ranges that WellFormed refuses; and, for every statement with hypotheses, a
named theorem `test_met_…` that shows concrete states and operands which meet them, clause by clause at the ends of its
ranges. -/

namespace Sys2Proof.Tests

open Sys2Proof.Machine

set_option Elab.async false

/-! ## Small states -/

/-- The next state of an outcome, where there is one. -/
def outcome (r : Result) : Option State :=
  match r with
  | .next t => some t
  | .fault _ => none
  | .refused _ => none

/-- The refusal of an outcome, where there is one. -/
def refusal (r : Result) : Option Refusal :=
  match r with
  | .next _ => none
  | .fault _ => none
  | .refused r => some r

/-- The next state of an outcome. -/
def after (r : Result) : State := (outcome r).getD State.reset

theorem next_after {r : Result} (h : (outcome r).isSome = true) : r = .next (after r) := by
  cases r with
  | next t => rfl
  | fault f => cases h
  | refused f => cases h

theorem exists_next {r : Result} (h : (outcome r).isSome = true) : ∃ t, r = .next t := ⟨_, next_after h⟩

/-- A node 0x0011 that runs at time 20000, every link UP, every cell FREE and settled, nothing pending. -/
def node : State :=
  { State.reset with
    mode := .running, clock := ⟨20000, 0⟩, shelf.bus.parts := [], cg.settlements := Table.fill Config.gridEntries .settled
    ord := ⟨0, 0, none, .idle⟩, cfg.node.nodeId := 0x0011, adoption := ⟨0b1111, true⟩
    slc := ⟨Table.fill Config.degrees ⟨.up, some 19900, some 19950, [], .notFresh, 0⟩, none⟩ }

/-- The node with this transaction at the head of class (b). -/
def asked (s : State) (t : UpTxn) : State := { s with shelf.bus := { s.shelf.bus with accepted := [t] } }

/-- The node with this holding the port. -/
def porting (s : State) (p : Port) : State := { s with shelf.bus := { s.shelf.bus with port := p } }

/-- The node with this part access holding the port. -/
def answering (s : State) (o : Nat) (p : Purpose) : State := porting s (.part ⟨.d, o, 1, none, p, []⟩)

/-- The node with these pending part requests. -/
def waiting (s : State) (rs : List PartReq) : State := { s with shelf.bus := { s.shelf.bus with parts := rs } }

/-- The order being read is this lower half, padded with zeros. -/
def ordered (s : State) (lower : List Word) : State :=
  { answering s 0x2040 .orderUpper with ord := ⟨31, 0, none, .readingUpper ((lower ++ List.replicate 16 0).take 16)⟩ }

/-- An upper half of zeros. -/
def upper0 : List Word := List.replicate 16 0

/-- The key of the head job of the worked examples' shape. -/
def headKey : JobKey := ⟨0x0011, 1, 3⟩

/-- The key of a job that another node leads. -/
def hopKey : JobKey := ⟨0x0077, 1, 2⟩

/-- A PATH job of two nodes in a phase and at an attenuation. -/
def headJob (ph : Phase) (a : Atten) : Job :=
  { (default : Job) with
    key := headKey, tag := 0x77, kind := .path, phase := ph, profile := Profile.por, pilot := 12, egress := 2, slot := 40
    source := 5, att := a, target := 500, path := [⟨0x0011, 0, 2⟩, ⟨0x0012, 1, 0⟩], entry := some 0, stepNo := 1
    stack := [.block], lastPilot := 12, startAtt := some 2000
    hops := [⟨0, 0x0011, 60, 120, 5, 0, .ok, .lit, 2, 1000, none⟩, ⟨1, 0x0012, 60, 120, 7, 0, .ok, .lit, 2, 1000, none⟩] }

/-- Its participation. -/
def headEntry : Participation :=
  { (default : Participation) with
    key := headKey, role := .head, slot := 40, egress := 2, target := 500, opened := true, budget := 60, limit := 120 }

/-- The node that leads a job. -/
def leading (x : Job) : State :=
  ((node.setJob 1 (some x)).setEntry 0 (some headEntry)).setGrid 2 40 ⟨.ramping, some 0, none, false, false⟩

/-- A participation of a job that another node leads. -/
def hopEntry (role : Role) : Participation :=
  { (default : Participation) with
    key := hopKey, role := role, slot := 40, ingress := 1, egress := if role = .tail then 0 else 3, hop := 1
    target := 500, start := 2500, visibility := 1500, opened := true, budget := 60, limit := 120
    routeAtt := some 800, orphanFrom := some 15000, row := [1, 2, 5, 12, 25, 45, 80, 100] }

/-- The node that takes part in it. -/
def serving (x : Participation) : State :=
  (node.setEntry 0 (some x)).setGrid x.egress x.slot ⟨.reserved, some 0, none, false, false⟩

/-! ## Operand ranges: each check refuses a term outside it -/

/-- Ill-formed terms of the bus, timer and order commands, one or two for every range. -/
def illFormedBus : List Instr :=
  [.upstreamTransaction ⟨0, 1, .read 0⟩, .upstreamTransaction ⟨0, 1, .read 17⟩, .upstreamTransaction ⟨0, 1, .write []⟩,
   .checkReadAnswer (some (List.replicate 17 0)), .forwardedTransactionComplete true (List.replicate 17 0),
   .readHoldExpiry 10, .adoptionSettleDeadline 5 0, .adoptionSettleDeadline 0 96, .entryExpired 0 .inward 0,
   .entryExpired 5 .inward 0, .entryExpired 1 .outward 96, .measurementDeadline 32, .driftWatchExpiry 0,
   .driftWatchExpiry 5, .intakeSettleDeadline 0 0, .intakeSettleDeadline 5 0, .intakeSettleDeadline 1 96,
   .orderLowerReadAnswer (some []), .badKind [], .turnUp [], .suspend [], .resume [], .abort [], .release [],
   .clearWatch [], .loadProfile [], .loadTable [], .setNode []]

/-- Ill-formed frames. -/
def illFormedFrames : List Instr :=
  [.badFrame 0 [], .badFrame 5 [], .alive 0 0, .alive 5 0, .claim 0 headKey 0 default,
   .claim 1 headKey 0 { (default : ClaimBody) with path := [default] },
   .claim 1 headKey 0 { (default : ClaimBody) with path := List.replicate 17 default },
   .claim 1 headKey 0 { (default : ClaimBody) with path := [default, default], display := List.replicate 17 default },
   .confirm 0 headKey 0 [], .confirm 1 headKey 0 (List.replicate 17 default), .refuse 0 headKey 0 0 0,
   .intent 5 headKey 0 0 0, .ready 0 headKey 0, .busy 5 headKey 0 0, .measure 0 headKey 0 0 0, .report 5 headKey 0 [],
   .report 1 headKey 0 (List.replicate 17 default), .stepEnd 0 headKey 0 0, .commit 5 headKey 0, .committed 0 headKey 0,
   .abortFrame 5 headKey 0 0, .alarm 0 headKey 0 0 0, .keep 5 headKey 0]

/-- Ill-formed timer commands. -/
def illFormedTimers : List Instr :=
  [.livenessExpiry 0, .livenessExpiry 5, .aliveTimerExpiry 0, .frameSent 5, .orphanTimerExpiry 32, .keepTimerExpiry 8,
   .gateHoldLimitExpiry 0 .inward, .gateHoldLimitExpiry 5 .outward, .confirmWindowExpiry 8, .readyBusyWindowExpiry 8,
   .reportWindowExpiry 8, .committedWindowExpiry 8, .settleTimerExpiry 8, .retryDelayEnd 8, .remeasureWaitEnd 8,
   .unwindTimerExpiry 8]

/-- Each is ill formed, and exec refuses it by name. -/
def refusesAll (l : List Instr) : Bool :=
  l.all fun i => !i.wellFormed && decide (refusal (exec i node) = some .illFormed)

theorem test_illFormed_bus_refused : refusesAll illFormedBus = true := by decide +kernel
theorem test_illFormed_frames_refused : refusesAll illFormedFrames = true := by decide +kernel
theorem test_illFormed_timers_refused : refusesAll illFormedTimers = true := by decide +kernel

/-! ## Formats (chapter 12) -/

/-- Section 9.2 names the CRC (CCITT polynomial, initial value all ones); its check value over "123456789" is 0x29B1. -/
theorem test_crc_check_value : crc16 [0x31, 0x32, 0x33, 0x34, 0x35, 0x36, 0x37, 0x38, 0x39] = 0x29B1 := by decide +kernel

/-- Section 12.3: a READY of job 0x0011/1/3, step 4: kind 5, the head node ID, generation and number, the step. -/
theorem test_ready_bytes : frameBytes (.path ⟨headKey, 4, .ready⟩) = [5, 0x00, 0x11, 0x31, 4] := by decide +kernel

/-- R188's lengths: READY 7, ALARM 9, INTENT 11, the longest CLAIM 290, ALIVE 4. -/
theorem test_frame_lengths :
    ([.path ⟨headKey, 0, .ready⟩, .path ⟨headKey, 0, .alarm 1 2⟩, .path ⟨headKey, 0, .intent 1 2⟩,
      .path ⟨headKey, 0, .claim ⟨0, 0, 0, 0, 0, List.replicate 16 default, List.replicate 16 default⟩⟩,
      .alive 1] : List Frame).map (fun f => (encodeFrame f).length) = [7, 9, 11, 290, 4] := by decide +kernel

/-- Section 1.5: a cell word with source 1, attenuation 820, pilot 17. -/
theorem test_cell_word : mkCell 1 17 (.hdb 820) = 0x00111334 := by decide +kernel

/-! ## The manual's arithmetic -/

/-- An element of the array with these figures. -/
def element (dev tnext factor : Nat) (used : Option Nat) : HopElem :=
  ⟨0, 0x0011, 60, 120, 12, dev, .ok, .lit, tnext, factor, used⟩

/-- The rows of R134's table: K_h, D_old, D_new, Δ, S_used_h and K_h after. -/
theorem test_correction_factor_rows :
    ([(1000, 0, 2, 200, 5, 2000), (1000, 0, 1, 200, 5, 1000), (2000, 41, 58, 95, 200, 1750), (1750, 58, 60, 11, 175, 1563),
      (1000, 20, 14, 150, 40, 1000), (3000, 10, 60, 100, 100, 4000), (1003, 5, 5, 10, 3, 1003), (2500, 0, 9, 50, 0, 2125)] :
      List (Nat × Nat × Nat × Nat × Nat × Nat)).all
    (fun (k, old, new, delta, used, k') =>
      ((element old 0 k (some used)).learn (some delta) { (default : HopRecord) with dev := BitVec.ofNat 16 new }).factor
        == k') = true := by decide +kernel

/-- The job of section 7.5 at A = 620, and the plan of its figures: Δ = 95, STEP. -/
theorem test_plan_near_the_end :
    ({ headJob .waiting (.hdb 620) with
        profile := ⟨10, 200, 1, 50, 2500, 1500⟩, steps := 5
        hops := [element 30 100 1000 none, element 22 70 1000 none, element 41 100 2000 none] } : Job).makePlan =
      ⟨.step, 95, 200, [100, 70, 200]⟩ := by decide +kernel

/-- The same job at the hold of section 7.5: the tail's room is 0, Δ = 0, NO_ROOM. -/
theorem test_plan_at_the_hold :
    ({ headJob .waiting (.hdb 514) with
        profile := ⟨10, 200, 1, 50, 2500, 1500⟩, steps := 7
        hops := [element 35 100 1000 none, element 25 70 1000 none, element 60 100 1563 none] } : Job).makePlan =
      ⟨.noRoom, 0, 200, [100, 70, 157]⟩ := by decide +kernel

/-- Section 7.7: the allowances at their bounds, of (T, K, B, D). -/
theorem test_allowances :
    ([(0, 1000, 60, 20), (1, 1000, 300, 0), (40, 1000, 60, 61), (200, 1000, 60, 59), (1500, 4000, 60, 0)] :
      List (Nat × Nat × Nat × Nat)).map (fun (t, k, b, d) => ({ element d t k none with budget := b } : HopElem).allowance) =
      [65535, 65535, 0, 5, 15] := by decide +kernel

/-- Section 4.7: reference counts 12 and 30 copy the rows of classes 1 and 2; depths 2000 and 120 are classes 0 and 6. -/
theorem test_table_rows :
    node.tableRow 12 = [1, 2, 5, 12, 25, 45, 80, 100] ∧ node.tableRow 30 = [1, 1, 3, 8, 16, 30, 55, 70] ∧
      depthClassOf 2000 = 0 ∧ depthClassOf 120 = 6 := by decide +kernel

/-! ## The manual's worked examples -/

/-- Section 2.11: entry (2, OUT, 17), snooped at 40000 as FINITE −410 with P = 500, at 41500 and at 41501. -/
theorem test_entry_ages :
    let s := { node.setSnap 2 .outward 17 ⟨.finite, some (-410), 0, some 40000, false, .pending⟩ with clock := ⟨41500, 0⟩ }
    (s.reading 2 .outward 17).cls = .finite ∧ (s.reading 2 .outward 17).level = some (-410) ∧
      ({ s with clock := ⟨41501, 0⟩ }.reading 2 .outward 17).cls = .stale := by decide +kernel

/-- The grid of section 1.5 before the burst. -/
def burstNode : State :=
  (((node.setGrid 3 38 ⟨.inService, none, none, false, false⟩).setGrid 3 39 ⟨.inService, none, none, false, false⟩).setGrid
    3 40 ⟨.ramping, some 0, none, false, false⟩).setEntry 0 (some headEntry)

/-- The burst of section 1.5. -/
def theBurst : UpTxn :=
  ⟨0x40000518, 2, .write [⟨mkCell 1 17 (.hdb 805), 15⟩, ⟨mkCell 2 0 (.hdb 3000), 15⟩, ⟨mkCell 1 0 (.hdb 800), 15⟩,
    ⟨mkCell 5 0 (.hdb 1200), 7⟩]⟩

/-- What the port forwards. -/
def forwarded (p : Port) : FwdWrite :=
  match p with
  | .write f => f
  | .checkRead f => f
  | .idle => default
  | .read _ => default
  | .part _ => default
  | .ending _ => default

/-- Section 1.5's burst after its check read. -/
def burstJudged : State :=
  after (exec (.checkReadAnswer (some [mkCell 1 0 (.hdb 820), mkCell 2 0 (.hdb 900)]))
    (after (exec .forwardedWriteGrant (asked burstNode theBurst))))

/-- Section 1.5: what is forwarded, and the two reports in beat order. -/
theorem test_burst_across_the_cells :
    (forwarded burstJudged.shelf.bus.port).beats.map (fun b => b.out) =
      [some ⟨mkCell 1 0 (.hdb 805), 15⟩, some ⟨mkCell 2 0 (.hdb 2500), 15⟩, some ⟨mkCell 1 0 (.hdb 800), 0⟩,
        some ⟨mkCell 5 0 (.hdb 1200), 0⟩] ∧
      (forwarded burstJudged.shelf.bus.port).beats.map (fun b => b.report.map Event.kind) =
        [none, none, some .intercept, some .malformedWrite] := by decide +kernel

/-- Degree 3 of section 3.6 before the expiry at 22000, with the readings taken there. -/
def driftNode : State :=
  { ((((((node.setGrid 3 12 ⟨.inService, none, some (-262), false, false⟩).setGrid 3 38
    ⟨.inService, none, some (-310), false, false⟩).setGrid 3 39 ⟨.inService, none, some (-290), false, false⟩).setSnap
    3 .outward 12 ⟨.finite, some (-250), 0, some 21900, false, .pending⟩).setSnap
    3 .outward 38 ⟨.finite, some (-420), 0, some 21900, false, .pending⟩).setSnap
    3 .outward 39 ⟨.dark, none, 0, some 21900, false, .pending⟩).setWatch 3 (some ⟨20000, 2000⟩) with
    clock := ⟨22000, 0⟩ }

/-- Section 3.6 at 22000: slot 12 unchanged, slot 38 DRIFT, slot 39 LOSS. -/
theorem test_drift_watch_expiry :
    let u := after (exec (.driftWatchExpiry 3) driftNode)
    u.grid 3 12 = ⟨.inService, none, some (-262), false, false⟩ ∧
      u.grid 3 38 = ⟨.inService, none, some (-310), true, false⟩ ∧
      u.grid 3 39 = ⟨.inService, none, some (-290), false, true⟩ := by decide +kernel

/-- R182 with no degree equipped: the words written and read at the beginning of adoption, in order. -/
theorem test_requests_of_adoption :
    (after (exec (.resetEnd 0) (after (exec .resetnAsserted { node with cfg.node.equipped := 0 })))).shelf.bus.parts.map
        (fun r => r.offset) =
      (List.range 16).map (fun i => 0x3100 + 4 * i) ++ [0x5000, 0x5004, 0x5008, 0x3000] ++
        (List.range 96).map (fun i => 4 * i) := by decide +kernel


/-! ## A check that a running state's owners match, for the witnesses -/

theorem all_places {n : Nat} {α : Type} [Inhabited α] {t : Table n α} {P : α → Nat → Bool}
    (h : (t.cells.zipIdx.all fun x => P x.1 x.2) = true) {i : Nat} (hi : i < n) : P (t.get i) i = true := by
  have hl : i < t.cells.length := by rw [t.size_eq]; exact hi
  have hg : t.get i = t.cells[i] := by
    unfold Table.get; rw [List.getD_eq_getElem?_getD, List.getElem?_eq_getElem hl]; rfl
  have := List.all_eq_true.mp h (t.cells[i], i)
    (List.mem_zipIdx_iff_getElem?.mpr (by rw [List.getElem?_eq_getElem hl]))
  rw [hg]; exact this

theorem all_below {n : Nat} {P : Nat → Bool} (h : (List.range n).all P = true) {i : Nat} (hi : i < n) : P i = true :=
  List.all_eq_true.mp h i (List.mem_range.mpr hi)

/-- The grid entry of cell i is shaped, and its owner is live with its place. -/
def cellOwned (s : State) (g : GridEntry) (i : Nat) : Bool :=
  match g.state with
  | .free => g == GridEntry.freeEntry
  | .quarantined => g == ⟨.quarantined, none, none, false, false⟩
  | .inService => g.owner.isNone
  | .reserved => g == ⟨.reserved, g.owner, none, false, false⟩ && ownerLives
  | .ramping => g == ⟨.ramping, g.owner, none, false, false⟩ && ownerLives
where
  ownerLives : Bool :=
    match g.owner with
    | none => false
    | some p =>
      match s.entry p with
      | none => false
      | some x => p < 32 && gridIndex x.egress x.slot == i && x.slot < 96

/-- The cell is settled, or it waits in its degree's intake and is FREE. -/
def cellSettled (s : State) (x : Settlement) (i : Nat) : Bool :=
  x == .settled || (s.cg.entries.get i == GridEntry.freeEntry && s.inIntake (i / 96))

/-- Entry p owns its cell; a HEAD or LOCAL entry is its job's. -/
def entryOwns (s : State) (p : Nat) : Bool :=
  match s.entry p with
  | none => true
  | some x =>
    let g := s.grid x.egress x.slot
    x.egress < 5 && x.slot < 96 && g.owner == some p && (g.state == .reserved || g.state == .ramping) &&
      decide (x.role = .tail ↔ x.egress = 0) &&
      (x.role.isTransitOrTail ||
        match s.job x.key.job.toNat with
        | none => false
        | some y => y.key == x.key && y.entry == some p)

/-- Job j has its number and its participation, and its timer runs in its phase. -/
def jobHas (s : State) (j : Nat) : Bool :=
  match s.job j with
  | none => true
  | some x =>
    x.key.job.toNat == j && (x.phase != .committing || x.entry.isNone) &&
      (match x.timer with
        | none => true
        | some t => t.kind.phase == x.phase) &&
      match x.entry with
      | none => true
      | some p =>
        match s.entry p with
        | none => false
        | some y => y.key == x.key && !y.role.isTransitOrTail && y.egress == x.egress && y.slot == x.slot

/-- A request that reads no cell. -/
def plain (r : PartReq) : Bool :=
  match r.purpose with
  | .adoptCell _ _ => false
  | .intakeCell _ _ d => d
  | _ => true

/-- The port holds no read of a cell. -/
def plainPort (p : Port) : Bool :=
  match p with
  | .part r => plain r
  | _ => true

/-- The cell of a beat that waits stands as it did at the grant. -/
def beatStands (s : State) (b : FwdBeat) : Bool :=
  match regionOf s.shelf.bus.winsel b.addr with
  | .cell e slot =>
    decide (1 ≤ e) && s.isEquipped e && !s.inIntake e &&
      (s.grid e slot).state == if b.checked then GridState.inService else .free
  | _ => false

/-- The cells of the beats that wait stand as they did at the grant. -/
def beatsStand (s : State) : Bool :=
  match s.shelf.bus.port with
  | .checkRead f =>
    s.mode == .running && decide ((f.beats.filter fun b => b.out.isNone).map fun b => regionOf s.shelf.bus.winsel b.addr).Nodup &&
      f.beats.all fun b => b.out.isSome || beatStands s b
  | _ => true

theorem beats_of_check {s : State} (h : beatsStand s = true) : s.WaitingBeatsStand := by
  intro f hf
  unfold beatsStand at h
  rw [hf] at h
  simp only [Bool.and_eq_true, beq_iff_eq, decide_eq_true_eq, List.all_eq_true, Bool.or_eq_true] at h
  refine ⟨h.1.1, h.1.2, fun b hb ho e slot hr => ?_⟩
  have hs := (h.2 b hb).resolve_left (by rw [ho]; decide)
  unfold beatStands at hs
  rw [hr] at hs
  simp only [Bool.and_eq_true, beq_iff_eq, decide_eq_true_eq, Bool.not_eq_true'] at hs
  exact ⟨hs.1.1.1, hs.1.1.2, hs.1.2, hs.2⟩

/-- A running node with every degree equipped whose owners match. -/
def ownersCheck (s : State) : Bool :=
  beatsStand s &&
  (s.mode == .running && s.cfg.node.equipped == 0b1111 && plainPort s.shelf.bus.port && s.shelf.bus.parts.all plain &&
    (List.range 32).all (entryOwns s) && (List.range 8).all (jobHas s) &&
    (s.cg.entries.cells.zipIdx.all fun x => cellOwned s x.1 x.2) &&
    s.cg.settlements.cells.zipIdx.all fun x => cellSettled s x.1 x.2)

theorem plain_reads {r : PartReq} (h : plain r = true) : r.purpose.readsCell = none := by
  unfold plain at h
  cases hp : r.purpose <;> simp [hp, Purpose.readsCell] at h ⊢
  subst h; rfl

theorem gridIndex_inj {e k e' k' : Nat} (hk : k < 96) (hk' : k' < 96) (h : gridIndex e k = gridIndex e' k') :
    e = e' ∧ k = k' := by
  unfold gridIndex at h; omega

theorem governed_all {s : State} (h : s.cfg.node.equipped = 0b1111) {e : Nat} (he : e ≤ 4) : s.governed e = true := by
  unfold State.governed State.isEquipped
  rw [h]
  have : ∀ e, e < 5 → (e == 0 || maskHas 0b1111 e) = true := by decide
  exact this e (by omega)

theorem ownersMatch_of_check {s : State} (h : ownersCheck s = true) : s.OwnersMatch := by
  unfold ownersCheck at h
  simp only [Bool.and_eq_true, beq_iff_eq] at h
  obtain ⟨hbeats, ⟨⟨⟨⟨⟨⟨hm, hq⟩, hport⟩, hparts⟩, hent⟩, hjob⟩, hgrid⟩, hset⟩ := h
  have cell : ∀ e slot, e ≤ 4 → slot < 96 → cellOwned s (s.grid e slot) (gridIndex e slot) = true :=
    fun e slot he hs => all_places hgrid (by unfold gridIndex Config.gridEntries; omega)
  have sett : ∀ e slot, e ≤ 4 → slot < 96 → s.settlement e slot ≠ .settled →
      s.grid e slot = GridEntry.freeEntry ∧ s.inIntake e = true := fun e slot he hs hn => by
    have := all_places hset (i := gridIndex e slot) (by unfold gridIndex Config.gridEntries; omega)
    unfold cellSettled at this
    have hd : gridIndex e slot / 96 = e := by unfold gridIndex; omega
    rw [hd] at this
    simp only [Bool.or_eq_true, Bool.and_eq_true, beq_iff_eq] at this
    exact this.resolve_left hn
  have asks : ∀ r, s.shelf.bus.Asks r → plain r = true := fun r hr => by
    rcases hr with hr | hr
    · rw [hr] at hport; exact hport
    · exact List.all_eq_true.mp hparts r hr
  have ent : ∀ p x, s.entry p = some x → entryOwns s p = true := fun p x hx => all_below hent (State.entry_lt hx)
  have job : ∀ j x, s.job j = some x → jobHas s j = true := fun j x hx => all_below hjob (State.job_lt hx)
  refine ⟨fun e slot he hs => ?_, ⟨fun e slot he hs hst => ?_, fun p x hx => ?_, fun p x hx => ?_⟩,
    ⟨fun j x hx => ?_, fun j x p hx hp => ?_⟩, ⟨fun p x hx hr => ?_, fun j y hy hc => ?_, fun j y t hy ht => ?_⟩,
    ⟨fun hn => absurd hm hn, fun hn => absurd hm hn, fun hn => absurd hm hn, fun _ _ _ => hm,
      fun hr => by rw [hm] at hr; cases hr⟩,
    ⟨fun e slot he hs hn => ?_, fun d slot h1 h4 hs hu => ?_, fun r e slot hr hp => ?_, fun r d slot hr hp => ?_, ?_⟩, beats_of_check hbeats⟩
  · have := cell e slot he hs
    generalize s.grid e slot = g at this
    obtain ⟨st, o, c, dr, ls⟩ := g
    cases st <;> simp [cellOwned, GridEntry.freeEntry] at this
    · obtain ⟨rfl, rfl, rfl, rfl⟩ := this; exact ⟨by decide, by decide, by decide⟩
    · obtain ⟨⟨rfl, rfl, rfl⟩, ho⟩ := this
      cases o with
      | none => simp [cellOwned.ownerLives] at ho
      | some p => exact ⟨by simp, by simp, by simp⟩
    · obtain ⟨⟨rfl, rfl, rfl⟩, ho⟩ := this
      cases o with
      | none => simp [cellOwned.ownerLives] at ho
      | some p => exact ⟨by simp, by simp, by simp⟩
    · subst this; exact ⟨by simp, by simp, by simp⟩
    · obtain ⟨rfl, rfl, rfl, rfl⟩ := this; exact ⟨by decide, by decide, by decide⟩
  · have := cell e slot he hs
    have lives : cellOwned.ownerLives s (s.grid e slot) (gridIndex e slot) = true := by
      unfold cellOwned at this
      rcases hst with hst | hst <;> rw [hst] at this <;> exact (Bool.and_eq_true _ _ ▸ this).2
    unfold cellOwned.ownerLives at lives
    cases ho : (s.grid e slot).owner with
    | none => rw [ho] at lives; cases lives
    | some p =>
      rw [ho] at lives
      cases hx : s.entry p with
      | none => simp [hx] at lives
      | some x =>
        simp [hx] at lives
        have := gridIndex_inj lives.2 hs lives.1.2
        exact ⟨p, x, lives.1.1, rfl, hx, this.1, this.2⟩
  · have := ent p x hx
    simp [entryOwns, hx] at this
    exact ⟨by omega, by omega, by tauto, by tauto⟩
  · have := ent p x hx
    simp [entryOwns, hx] at this
    tauto
  · have := job j x hx
    simp [jobHas, hx] at this
    tauto
  · have := job j x hx
    simp [jobHas, hx, hp] at this
    cases hy : s.entry p with
    | none => simp [hy] at this
    | some y => simp [hy] at this; exact ⟨y, rfl, by tauto⟩
  · have := ent p x hx
    simp [entryOwns, hx, hr] at this
    cases hy : s.job x.key.job.toNat with
    | none => simp [hy] at this
    | some y => simp [hy] at this; exact ⟨y, rfl, by tauto⟩
  · have := job j y hy
    simp [jobHas, hy, hc] at this
    tauto
  · have := job j y hy
    simp [jobHas, hy, ht] at this
    tauto
  · obtain ⟨hf, hi⟩ := sett e slot he hs hn
    exact ⟨by rw [hf]; rfl, governed_all hq he, fun _ => hi⟩
  · have := governed_all hq h4
    unfold State.governed at this
    rw [hu] at this
    simp at this; omega
  · have := asks r hr; simp [plain, hp] at this
  · have := asks r hr; simp [plain, hp] at this
  · have : s.shelf.bus.cellReads = [] := by
      unfold BusInterposer.cellReads
      have h2 : s.shelf.bus.parts.filterMap (fun r => r.purpose.readsCell) = [] :=
        List.filterMap_eq_nil_iff.mpr fun r hr => plain_reads (asks r (.inr hr))
      rw [h2]
      cases hp : s.shelf.bus.port <;> simp
      exact plain_reads (asks _ (.inl hp))
    rw [this]; exact List.nodup_nil
/-! ## Witnesses: the machine and its invariants -/

theorem test_met_StepRunsTheFrontCommand :
    ({ node with pending := [.freshPeriodEnd, .commitReturnExpiry] } : State).pending =
      .freshPeriodEnd :: [.commitReturnExpiry] := rfl

/-- Outside reset with the microseconds at 0, 998 and 999, before the time base wraps, and in reset; a command. -/
theorem test_met_OnlyIdleStepsAdvanceTheClock :
    (node.pending = [] ∧ node.mode ≠ .inReset ∧ node.clock.us < 999) ∧
      (let s : State := { node with clock := ⟨0xFFFFFFFF, 999⟩ }
       s.pending = [] ∧ s.mode ≠ .inReset ∧ ¬ s.clock.us < 999) ∧
      ((node.resetBegins .resetn).pending = [] ∧ (node.resetBegins .resetn).mode = .inReset) ∧
      ({ node with clock := ⟨0, 998⟩ } : State).clock.us < 999 ∧
      (∃ t, exec .freshPeriodEnd node = .next t) ∧ ∀ straps, Instr.freshPeriodEnd ≠ .resetEnd straps :=
  ⟨by decide +kernel, by decide +kernel, by decide +kernel, by decide, exists_next (by decide +kernel), fun _ h => by cases h⟩

/-- What an idle step at this moment queues. -/
def queuedAt (s : State) (c : Clock) : List Instr := (after (step { s with clock := c })).pending

/-- A read hold opened at 20000, at 49 and at 50 µs; the ALIVE timers started at 19950, at 99 and at 100 ms; nothing of the
time base between its counts. -/
theorem test_met_OnlyIdleStepsAdvanceTheClock_due :
    let s : State := { node with shelf.bus := { node.shelf.bus with
      holds := node.shelf.bus.holds.set 9 ⟨some ⟨20000, 0⟩, []⟩ } }
    queuedAt s ⟨20000, 48⟩ = [] ∧ queuedAt s ⟨20000, 49⟩ = [.readHoldExpiry 9] ∧ queuedAt node ⟨20048, 999⟩ = [] ∧
      queuedAt node ⟨20049, 999⟩ = [.aliveTimerExpiry 1, .aliveTimerExpiry 2, .aliveTimerExpiry 3, .aliveTimerExpiry 4] ∧
      queuedAt node ⟨20050, 0⟩ = [] ∧ node.Past 19900 100 ∧ ¬ node.Past 19901 100 :=
  ⟨by decide +kernel, by decide +kernel, by decide +kernel, by decide +kernel, by decide +kernel,
    by unfold State.Past; decide +kernel, by unfold State.Past; decide +kernel⟩

/-- The head job of the invariants' witness: it holds its gate, waits for READY, and has a plan. -/
def busyJob : Job :=
  { headJob .gating (.hdb 2000) with
    plan := some ⟨.step, 150, 150, [2, 2]⟩, timer := some ⟨.readyBusyWindow, ⟨19900, 350⟩⟩ }

/-- A state that meets every invariant with something at stake in each: a live job with its participation, its gate and its
RAMPING cell, a transit that is OPEN, an IN_SERVICE cell, a FINITE reading, two pending writes, a hold that defers a value,
events that wait, a remembered order index, and a READY at the front of the queue. -/
def busy : State :=
  { (((((leading busyJob).setEntry 1 (some (hopEntry .transit))).setGrid 3 40
      ⟨.ramping, some 1, none, false, false⟩).setGrid 3 41 ⟨.inService, none, some (-310), true, false⟩).setSnap
      2 .outward 7 ⟨.finite, some (-410), 12, some 19000, false, .number 5⟩).setGate 2 .outward
      (some ⟨0, headKey, 19900, 2, .hdb 2000⟩) with
    pending := [.ready 2 headKey 2]
    shelf := { node.shelf with
      bus := { node.shelf.bus with
        parts := [⟨.c, cellOffset 2 40, 1, some 0x5FFF, .step headKey, []⟩, ⟨.d, 0x4000, 1, some 0, .record, []⟩]
        bGrants := 4, accepted := [⟨0x50000000, 2, .read 1⟩]
        holds := node.shelf.bus.holds.set 0 ⟨some ⟨20000, 0⟩, [(0x3104, 5), (0x3108, 6)]⟩ }
      rw := { node.shelf.rw with
        producer := 127, consumer := 5, drops := 255, flight := some ⟨default, 8, false⟩, queue := [default] } }
    ord := ⟨31, 0, some 31, .idle⟩ }

theorem busy_job {j : Nat} {x : Job} (h : busy.job j = some x) : j = 1 ∧ x = busyJob := by
  have hj := State.job_lt h
  have key : ∀ j, j < 8 → busy.job j = if j = 1 then some busyJob else none := by decide +kernel
  rw [key j hj] at h
  split at h
  · exact ⟨‹_›, (Option.some.inj h).symm⟩
  · cases h

theorem busy_entry {p : Nat} {x : Participation} (h : busy.entry p = some x) :
    (p = 0 ∧ x = headEntry) ∨ (p = 1 ∧ x = hopEntry .transit) := by
  have hp := State.entry_lt h
  have key : ∀ p, p < 32 →
      busy.entry p = if p = 0 then some headEntry else if p = 1 then some (hopEntry .transit) else none := by
    decide +kernel
  rw [key p hp] at h
  split at h
  · exact .inl ⟨‹_›, (Option.some.inj h).symm⟩
  · split at h
    · exact .inr ⟨‹_›, (Option.some.inj h).symm⟩
    · cases h

theorem busy_gate {d : Nat} {dir : Dir} {h : GateHold} (hd : 1 ≤ d) (hd' : d ≤ 4) (e : busy.gate d dir = some h) :
    d = 2 ∧ dir = .outward ∧ h = ⟨0, headKey, 19900, 2, .hdb 2000⟩ := by
  have key : ∀ d, d < 5 → 1 ≤ d → ∀ o : Bool, busy.gate d (if o then .outward else .inward) =
      if d = 2 ∧ o = true then some ⟨0, headKey, 19900, 2, .hdb 2000⟩ else none := by decide +kernel
  cases dir with
  | inward => rw [show Dir.inward = if false = true then .outward else .inward from rfl, key d (by omega) hd] at e; simp at e
  | outward =>
    rw [show Dir.outward = if true = true then .outward else .inward from rfl, key d (by omega) hd] at e
    split at e
    · next hc => exact ⟨hc.1, rfl, (Option.some.inj e).symm⟩
    · cases e

theorem busy_steps : ∃ t, step busy = .next t := exists_next (by decide +kernel)

theorem test_met_GateHoldersStayLiveWatchers : busy.GatesHeldByWatchers ∧ ∃ t, step busy = .next t := by
  refine ⟨⟨fun p x h => ?_, fun d dir h hd hd' e => ?_⟩, busy_steps⟩
  · rcases busy_entry h with ⟨-, rfl⟩ | ⟨-, rfl⟩ <;> decide
  · obtain ⟨rfl, rfl, rfl⟩ := busy_gate hd hd' e
    exact ⟨headEntry, by decide +kernel, by decide, by decide⟩

theorem test_met_JobCountsStayBounded : busy.JobsBounded ∧ ∃ t, step busy = .next t := by
  refine ⟨⟨fun j x h => ?_, fun j x h => ?_, fun j x h => ?_⟩, busy_steps⟩ <;> obtain ⟨rfl, rfl⟩ := busy_job h
  · decide
  · decide
  · exact ⟨by decide, by decide, by decide, by decide, by decide, by decide, by decide, by decide, by decide⟩

theorem busy_in_range : busy.cfg.InRange := by
  refine ⟨by decide, by decide, by decide, fun d hd hd' => ?_, fun i hi => ?_, by decide +kernel⟩
  · have : busy.cfg.node.perDegree.get (d - 1) = DegreeSettings.por := Table.get_fill _ _ (by unfold Config.degrees; omega)
    rw [this]
    exact ⟨by decide, by decide, by decide, by decide, by decide, by decide⟩
  · have : busy.cfg.profiles.get i = Profile.por := Table.get_fill _ _ hi
    rw [this]
    exact ⟨by decide, by decide, by decide, by decide, by decide, by decide⟩

theorem test_met_JobsNeverPassTheirTarget :
    busy.cfg.InRange ∧ busy.JobsAboveTarget ∧ ∃ t, step busy = .next t := by
  refine ⟨busy_in_range, fun j x h => ?_, busy_steps⟩
  obtain ⟨rfl, rfl⟩ := busy_job h
  refine ⟨by decide, by show (500 : Nat) ≤ 2000; decide, ?_, fun a h => ?_, fun p a _ h1 h2 => ?_, fun t h => ?_⟩
  · exact .cons (fun a h => by obtain rfl := List.mem_singleton.mp h; trivial) (.cons (fun _ h => by cases h) .nil)
  · cases h; decide
  · cases h1; cases h2; decide
  · cases h; rfl

theorem test_met_GridEntriesKeepTheirShape : busy.GridShaped ∧ ∃ t, step busy = .next t := by
  have key : ∀ g ∈ busy.cg.entries.cells, (g.owner.isSome = true ↔ g.state = .reserved ∨ g.state = .ramping) ∧
      (g.state ≠ .inService → g.commitLevel = none) ∧ (g.state ≠ .inService → g.drift = false ∧ g.loss = false) := by
    decide +kernel
  refine ⟨fun e k _ _ => ?_, busy_steps⟩
  exact Table.forall_get busy.cg.entries GridEntry.Shaped ⟨by decide, by decide, by decide⟩
    (fun g hg => ⟨(key g hg).1, (key g hg).2.1, (key g hg).2.2⟩) _

theorem test_met_PendingWritesStayOnePerWord : busy.shelf.bus.WritesOrdered ∧ ∃ t, step busy = .next t := by
  have key : ∀ r, r < 10 → (busy.shelf.bus.holds.get r).deferred.Pairwise (fun x y => x.1 < y.1) ∧
      ((busy.shelf.bus.holds.get r).opened = none → (busy.shelf.bus.holds.get r).deferred = []) := by decide +kernel
  refine ⟨⟨?_, fun r hr => ⟨(key r hr).1, (key r hr).2⟩⟩, busy_steps⟩
  unfold BusInterposer.OneWritePerWord
  decide +kernel

theorem test_met_BusAndReportRingStayBounded :
    busy.shelf.Bounded ∧ busy.shelf.bus.CopiesAreTheScanners ∧ ∃ t, step busy = .next t :=
  ⟨⟨by decide +kernel, by decide, by decide, by decide, by decide, by decide +kernel, fun f h => by cases h; decide⟩,
    fun f h => (by rcases h with h | h <;> cases h), busy_steps⟩

theorem busy_owners : busy.OwnersMatch := ownersMatch_of_check (by decide +kernel)

/-- Its one job has its participation, and it runs. -/
theorem busy_work : busy.WorkHasItsPlace := by
  refine ⟨fun j y h _ _ => ?_, fun h => absurd rfl h⟩
  obtain ⟨rfl, rfl⟩ := busy_job h
  exact fun h => by cases h

/-- Two live entries that own their cells; seven live jobs and eight, 31 live entries and 32. -/
theorem test_met_OwnersAndJobsKeepTheirEntries :
    busy.JobsHaveEntries ∧ busy.OwnersMatch ∧ busy.WorkHasItsPlace ∧ (∃ t, step busy = .next t) ∧
      busy.entry 0 = some headEntry ∧ busy.entry 1 = some (hopEntry .transit) ∧ headEntry.role.isTransitOrTail = false ∧
      (let full : State := { node with jobs := Table.fill 8 (some default), pa.entries := Table.fill 32 (some default) }
       full.liveJobs = 8 ∧ full.liveEntries = 32 ∧ (full.setJob 7 none).liveJobs < 8 ∧ (full.setEntry 31 none).liveEntries < 32) :=
  ⟨busy_owners.jobs, busy_owners, busy_work, busy_steps, by decide +kernel⟩

theorem test_met_ConfigurationAndRecordsKeepTheirShape :
    busy.cfg.InRange ∧ (busy.LinksShaped ∧ busy.SnapshotShaped ∧ busy.ord.InRing ∧ busy.Between) ∧ ∃ t, step busy = .next t := by
  refine ⟨busy_in_range, ⟨fun d hd hd' => ?_, fun i _ => ?_, ⟨by decide, by decide, fun v h => by cases h; decide⟩, rfl⟩, busy_steps⟩
  · have : busy.link d = ⟨.up, some 19900, some 19950, [], .notFresh, 0⟩ :=
      Table.get_fill _ _ (by unfold Config.degrees; omega)
    rw [this]
    exact ⟨by decide, by decide, by decide, by decide, by decide⟩
  · have key : ∀ x ∈ busy.msu.entries.cells, (∀ l ∈ x.level, x.cls = .finite ∧ -6000 ≤ l ∧ l ≤ 2500) ∧
        (x.cls = .finite → x.level.isSome = true) ∧ x.pilot ≤ 4095 := by decide +kernel
    exact Table.forall_get busy.msu.entries SnapEntry.Shaped ⟨fun l h => (by cases h), by decide, by decide⟩
      (fun x hx => ⟨(key x hx).1, (key x hx).2.1, (key x hx).2.2⟩) _


/-! ## Witnesses: frames as bytes, and the bus -/

/-- The longest CLAIM, and a READY. -/
def longClaim : Frame :=
  .path ⟨headKey, 0, .claim ⟨40, 12, 500, 2500, 1500, List.replicate 16 default, List.replicate 16 default⟩⟩

theorem test_met_FramesReadAsTheyWereSent :
    longClaim.CountsInRange ∧ (Frame.path ⟨headKey, 1, .report []⟩).CountsInRange ∧
      (Frame.path ⟨headKey, 0, .confirm (List.replicate 16 default)⟩).CountsInRange :=
  ⟨⟨by decide, by decide, by decide⟩, by show 0 ≤ 16; decide, by show (List.replicate 16 _).length ≤ 16; simp⟩

theorem test_met_CorruptedByteIsNoFrame :
    (longClaim.CountsInRange ∧ 289 < (encodeFrame longClaim).length ∧ (255 : Byte) ≠ 0) ∧
      ((Frame.alive 1).CountsInRange ∧ 0 < (encodeFrame (.alive 1)).length ∧ (1 : Byte) ≠ 0) :=
  ⟨⟨test_met_FramesReadAsTheyWereSent.1, by decide +kernel, by decide⟩, trivial, by decide +kernel, by decide⟩

theorem every_mem {l : List Word} {p : Word → Prop} [DecidablePred p] (h : l.all (fun a => decide (p a)) = true) :
    ∀ a ∈ l, p a := fun a ha => of_decide_eq_true (List.all_eq_true.mp h a ha)

theorem some_mem {l : List Word} {p : Word → Prop} [DecidablePred p] (h : l.any (fun a => decide (p a)) = true) :
    ∃ a ∈ l, p a := (List.any_eq_true.mp h).imp fun _ ⟨ha, hp⟩ => ⟨ha, of_decide_eq_true hp⟩

/-- A node with this bus. -/
def bussed (s : State) (accepted : List UpTxn) (p : Port) (parts : List PartReq) (n : Nat) : State :=
  { s with shelf.bus := { s.shelf.bus with accepted := accepted, port := p, parts := parts, bGrants := n } }

/-- A read of n words at an address. -/
def reads (a : Word) (n : Nat) : UpTxn := ⟨a, 3, .read n⟩

/-- Three held, four held, and in reset. -/
theorem test_met_TransactionsAreAcceptedAndReadsGranted :
    let three := bussed node [reads 0 1, reads 4 1] (.read (reads 8 16)) [] 0
    let four := bussed node [reads 0 1, reads 4 1, reads 8 1, reads 12 16] .idle [] 0
    (three.Between ∧ (Burst.read 1).wellFormed = true ∧ three.mode ≠ .inReset ∧ three.shelf.bus.held < 4) ∧
      (four.Between ∧ (Burst.read 16).wellFormed = true ∧ 4 ≤ four.shelf.bus.held) ∧
      ((node.resetBegins .resetn).Between ∧ (Burst.write [default]).wellFormed = true ∧
        (node.resetBegins .resetn).mode = .inReset) :=
  ⟨⟨rfl, by decide +kernel⟩, ⟨rfl, by decide +kernel⟩, rfl, by decide +kernel⟩

/-- A status read of sixteen words with the hold of record 0 closed, and of the three header words with that of record 9
open; with the count at 3 before a part request that waits, and at 4 with none. -/
theorem test_met_TransactionsAreAcceptedAndReadsGranted_reads :
    let t := reads 0x40003100 16
    let s := bussed node [t] .idle [⟨.d, 0x5000, 1, some 1, .header, []⟩] 3
    let t' := reads 0x40005000 3
    let s' : State := { bussed node [t'] .idle [] 4 with
      shelf.bus.holds := node.shelf.bus.holds.set 9 ⟨some ⟨20000, 0⟩, []⟩ }
    (s.Between ∧ s.shelf.bus.HeadHasTurn t ∧ t.burst = .read 16 ∧ (s.shelf.bus.holds.get 0).opened = none ∧
        (∃ a ∈ beatAddrs t, windowOffset s.shelf.bus.winsel a = some (holdBase 0)) ∧
        ∀ a ∈ beatAddrs t, windowOffset s.shelf.bus.winsel a ≠ some (holdBase 1)) ∧
      (s'.Between ∧ s'.shelf.bus.HeadHasTurn t' ∧ t'.burst = .read 3 ∧ (s'.shelf.bus.holds.get 9).opened.isSome = true) := by
  refine ⟨⟨rfl, ⟨rfl, rfl, rfl, by decide +kernel, .inl (by decide)⟩, rfl, by decide +kernel, some_mem (by decide +kernel),
    every_mem (by decide +kernel)⟩, rfl, ⟨rfl, rfl, rfl, by decide +kernel, .inr fun h => ?_⟩, by decide +kernel⟩
  obtain ⟨r, hr, -⟩ := h
  cases hr

/-- The burst of section 1.5, and one write at either side of the window. -/
theorem test_met_GrantedWriteIsJudgedBeatByBeat :
    let t : UpTxn := ⟨0x3FFFFFFC, 2, .write [⟨1, 15⟩]⟩
    let s := bussed node [t] .idle [] 0
    ((asked burstNode theBurst).Between ∧ (asked burstNode theBurst).shelf.bus.HeadHasTurn theBurst ∧
        ∃ bs, theBurst.burst = .write bs) ∧
      s.Between ∧ s.shelf.bus.HeadHasTurn t ∧ t.burst = .write [⟨1, 15⟩] ∧
        ∀ a ∈ beatAddrs t, regionOf s.shelf.bus.winsel a = .ordinary ∨ regionOf s.shelf.bus.winsel a = .outside :=
  ⟨⟨rfl, ⟨rfl, rfl, rfl, by decide +kernel, .inl (by decide)⟩, _, rfl⟩, rfl,
    ⟨rfl, rfl, rfl, by decide +kernel, .inl (by decide)⟩, rfl, every_mem (by decide +kernel)⟩

/-- Section 1.5's burst at its grant: two beats wait for the check read, two are judged; then a beat of the burst to a FREE
cell, which waits behind them uncovered. -/
theorem test_met_GrantedWriteIsJudgedBeatByBeat_order :
    let t : UpTxn := ⟨0x4000051C, 2, .write [⟨mkCell 1 17 (.hdb 805), 15⟩, ⟨0, 15⟩, ⟨mkCell 1 0 (.hdb 800), 15⟩]⟩
    let u (s : State) := after (exec .forwardedWriteGrant s)
    (forwarded (u (asked burstNode theBurst)).shelf.bus.port).beats.map (fun b => (b.out.isNone, b.checked)) =
        [(true, true), (true, true), (false, false), (false, false)] ∧
      (asked burstNode t).shelf.bus.HeadHasTurn t ∧
      (forwarded (u (asked burstNode t)).shelf.bus.port).beats.map (fun b => (b.out.isNone, b.checked)) =
        [(true, true), (false, false), (true, false)] :=
  ⟨by decide +kernel, ⟨rfl, rfl, rfl, by decide +kernel, .inl (by decide)⟩, by decide +kernel⟩

/-- One beat to an IN_SERVICE cell, whole and partial, and one to the last word of the window. -/
theorem test_met_GrantedWriteIsJudgedBeatByBeat_one :
    let t (a : Word) (en : BitVec 4) : UpTxn := ⟨a, 2, .write [⟨1, en⟩]⟩
    (asked burstNode (t 0x40000518 15)).shelf.bus.HeadHasTurn (t 0x40000518 15) ∧ burstNode.Between ∧
      (t 0x40000518 15).burst = .write [⟨1, 15⟩] ∧ (t 0x40000518 7).burst = .write [⟨1, 7⟩] ∧
      (asked burstNode (t 0x40000518 15)).needsCheck (0x40000518 &&& 0xFFFFFFFC) = true ∧
      (asked burstNode (t 0x4000FFFC 15)).needsCheck (0x4000FFFC &&& 0xFFFFFFFC) = false :=
  ⟨⟨rfl, rfl, rfl, by decide +kernel, .inl (by decide)⟩, rfl, rfl, rfl, by decide +kernel, by decide +kernel⟩

/-- One beat to cell (3, 40) in this grid state, this mode and with these enables. -/
def shielded (g : GridEntry) (m : Mode) (en : BitVec 4) : State :=
  { bussed (burstNode.setGrid 3 40 g) [⟨0x40000520, 2, .write [⟨0, en⟩]⟩] .idle [] 0 with mode := m }

/-- The beat as it is forwarded. -/
def onlyBeat (u : State) : FwdBeat := (forwarded u.shelf.bus.port).beats.getD 0 default

/-- RUNNING and ADOPTING, whole and partial, with an owner and without. -/
theorem test_met_OwnedCellsAreShielded :
    ∀ g ∈ [(⟨.reserved, some 0, none, false, false⟩ : GridEntry), ⟨.ramping, some 0, none, false, false⟩,
        ⟨.quarantined, none, none, false, false⟩], ∀ m ∈ [Mode.running, .adopting], ∀ en ∈ [(15 : BitVec 4), 14],
      let s := shielded g m en
      let u := after (exec .forwardedWriteGrant s)
      (outcome (exec .forwardedWriteGrant s)).isSome = true ∧ u.shelf.bus.port = .write (forwarded u.shelf.bus.port) ∧
        onlyBeat u ∈ (forwarded u.shelf.bus.port).beats ∧ regionOf s.shelf.bus.winsel (onlyBeat u).addr = .cell 3 40 ∧
        s.governed 3 = true ∧ (onlyBeat u).written.enables = en ∧ s.inIntake 3 = false ∧
        ((s.grid 3 40).owner = none ∨ (s.grid 3 40).owner = some 0 ∧ s.entry 0 = some headEntry) ∧
        ((s.grid 3 40).state = .reserved ∨ (s.grid 3 40).state = .ramping ∨ (s.grid 3 40).state = .quarantined) := by
  decide +kernel

/-- In the intake of its degree too. -/
theorem test_met_OwnedCellsAreShielded_intake :
    let s : State := { shielded ⟨.quarantined, none, none, false, false⟩ .running 15 with cg.intakes := node.cg.intakes.set 2 true }
    (∃ u, exec .forwardedWriteGrant s = .next u) ∧ s.inIntake 3 = true :=
  ⟨exists_next (by decide +kernel), by decide +kernel⟩

/-- Sixteen beats whose cells are checked. -/
def sixteenChecked : FwdWrite :=
  ⟨⟨0x40000480, 2, .write (List.replicate 16 ⟨0x1320, 15⟩)⟩,
    (List.range 16).map fun i => ⟨0x40000480 + BitVec.ofNat 32 (4 * i), ⟨0x1320, 15⟩, none, true, none, none⟩, []⟩

theorem test_met_CheckReadAnswerJudgesTheRest :
    (porting node (.checkRead sixteenChecked)).shelf.bus.port = .checkRead sixteenChecked ∧
      (∀ ws, (none : Option (List Word)) = some ws → ws.length = sixteenChecked.checkWords ∧ ws.length ≤ 16) ∧
      ∀ ws, some (List.replicate 16 (0x1320 : Word)) = some ws → ws.length = sixteenChecked.checkWords ∧ ws.length ≤ 16 := by
  refine ⟨rfl, fun ws h => ?_, fun ws h => ?_⟩
  · cases h
  · obtain rfl := Option.some.inj h
    exact ⟨by decide +kernel, by decide⟩

/-- A write of three beats, to an IN_SERVICE cell and two FREE ones, lit, unlit and lit, after its grant. -/
def threeWaits : State :=
  after (exec .forwardedWriteGrant (asked (node.setGrid 3 38 ⟨.inService, none, none, false, false⟩)
    ⟨0x40000518, 2, .write [⟨mkCell 1 0 (.hdb 700), 15⟩, ⟨0, 15⟩, ⟨mkCell 1 0 (.hdb 800), 15⟩]⟩))

/-- The first and the third of its beats wait, and its entries stand; the answers OK and ERROR; a step takes the answer. -/
theorem test_met_CheckReadAnswerJudgesTheRest_stand :
    let f := forwarded threeWaits.shelf.bus.port
    threeWaits.shelf.bus.port = .checkRead f ∧ f.beats.map (fun b => (b.out.isNone, b.checked)) =
        [(true, true), (false, false), (true, false)] ∧
      f.beats.map (fun b => regionOf threeWaits.shelf.bus.winsel b.addr) = [.cell 3 38, .cell 3 39, .cell 3 40] ∧
      threeWaits.WaitingBeatsStand ∧ threeWaits.OwnersMatch ∧ threeWaits.shelf.bus.promised = [(3, 40)] ∧
      f.beats.map (fun b => b.written.enables) = [15, 15, 15] ∧ f.checkWords = 1 ∧
      (∃ u, step { threeWaits with pending := [.checkReadAnswer (some [mkCell 1 0 (.hdb 820)])] } = .next u) ∧
      ∃ u, step { threeWaits with pending := [.checkReadAnswer none] } = .next u :=
  ⟨by decide +kernel, by decide +kernel, by decide +kernel, beats_of_check (by decide +kernel),
    ownersMatch_of_check (by decide +kernel), by decide +kernel, by decide +kernel, by decide +kernel,
    exists_next (by decide +kernel), exists_next (by decide +kernel)⟩

/-- A CLAIM between the grant and the answer does not turn the LIGHT of a FREE cell away (R6, R12): it is refused SLOT_BUSY, and
the beat becomes a LOCAL job. -/
theorem test_claim_between_grant_and_answer :
    let claim : Instr := .claim 1 hopKey 0
      ⟨40, 12, 500, 2500, 1500, [⟨0x0077, 0, 2⟩, ⟨0x0011, 1, 3⟩, ⟨0x0012, 1, 0⟩], [⟨0, 0x0077, 0x10, 0, 60, 120, 12, 2⟩]⟩
    let t := after (exec claim threeWaits)
    let u := after (exec (.checkReadAnswer (some [mkCell 1 0 (.hdb 720)])) t)
    (t.link 1).queue = [.path ⟨hopKey, 0, .refuse 26 1⟩] ∧ (t.grid 3 40).state = .free ∧
      (u.grid 3 40).state = .ramping ∧ (u.job 0).map Job.kind = some .light := by
  decide +kernel

/-- A single beat that waits: covered, with its word and with ERROR; not covered, to a cell that was FREE. -/
theorem test_met_CheckReadAnswerJudgesTheRest_one :
    let beat (checked : Bool) : FwdBeat := ⟨0x40000518, ⟨0x1320, 15⟩, none, checked, none, none⟩
    let f (checked : Bool) : FwdWrite := ⟨⟨0x40000518, 2, .write [⟨0x1320, 15⟩]⟩, [beat checked], []⟩
    (∀ c ∈ [true, false], (porting burstNode (.checkRead (f c))).shelf.bus.port = .checkRead (f c) ∧
        (f c).beats = [beat c] ∧ (beat c).out = none ∧ (f c).checkWords = if c then 1 else 0) ∧
      (let s := porting burstNode (.checkRead (f true))
       s.mode = .running ∧ regionOf s.shelf.bus.winsel (beat true).addr = .cell 3 38 ∧ s.isEquipped 3 = true ∧
         s.inIntake 3 = false ∧ (s.grid 3 38).state = .inService ∧ (node.grid 3 38).state = .free ∧
         (beat true).written.enables = 15) := by decide +kernel

/-- Each clause, at cells (1, 0), (4, 95), (0, 0) and (0, 95); the free step at 30 and 31; attenuations 2500, 2501, 4094 and BLOCK. -/
theorem test_met_CellWritesAreJudged :
    let on : GridEntry := ⟨.inService, none, none, false, false⟩
    let s := ((node.setGrid 1 0 on).setGrid 4 95 on).setGrid 0 0 on
    let now := mkCell 1 0 (.hdb 820)
    let w (d : Word) := rewriteCell d
    (s.mode ≠ .adopting ∧ s.inIntake 1 = false ∧ s.inIntake 4 = false ∧ s.inIntake 0 = false ∧
        (s.grid 1 0).state = .inService ∧ (s.grid 4 95).state = .inService ∧ (s.grid 0 0).state = .inService ∧
        (s.grid 0 95).state = .free ∧ (s.grid 1 95).state = .free ∧ (s.grid 4 0).state = .free) ∧
      (let a : State := { s with mode := .adopting, cg.intakes := s.cg.intakes.set 3 true }
       a.mode = .adopting ∧ a.inIntake 4 = true) ∧
      cellLit (w 0) = false ∧ cellLit now = true ∧ cellLit 0 = false ∧ cellLit (w 0x1FFF) = false ∧
      [0x19C4, 0x19C5, 0x1FFE, 0x1FFF].map (fun d => (w d).toNat % 4096) = [2500, 2500, 2500, 4095] ∧
      (cellLit (w 0x2320) = true ∧ cellSource (w 0x2320) ≠ cellSource now) ∧
      (cellLit (mkCell 1 0 (.hdb 790)) = true ∧ cellSource (w (mkCell 1 0 (.hdb 790))) = cellSource now ∧
        bitsOf now 0 12 ≤ bitsOf (w (mkCell 1 0 (.hdb 790))) 0 12 + 30) ∧
      (cellLit (mkCell 1 0 (.hdb 789)) = true ∧ cellSource (w (mkCell 1 0 (.hdb 789))) = cellSource now ∧
        bitsOf (w (mkCell 1 0 (.hdb 789))) 0 12 + 30 < bitsOf now 0 12) ∧
      s.cfg.node.nodeId ≠ 0 ∧ s.headSlotFree = true ∧ ({ s with cfg.node.nodeId := 0 } : State).cfg.node.nodeId = 0 ∧
      ({ s with jobs := Table.fill 8 (some default) } : State).headSlotFree = false ∧
      ({ s with pa.entries := Table.fill 32 (some default) } : State).headSlotFree = false := by
  decide +kernel

/-- The node with a channel in service at (1, 0). -/
def inService : State := node.setGrid 1 0 ⟨.inService, none, none, false, false⟩

/-- A LIGHT job at (4, 0), to 500. -/
def lit (s : State) : State := (s.judgeCell 4 0 1 ⟨mkCell 2 0 (.hdb 500), 15⟩ none).state

/-- A RAISE job at (1, 0), from 2000 to 500. -/
def raised (s : State) : State := (s.judgeCell 1 0 1 ⟨mkCell 1 0 (.hdb 500), 15⟩ (some (mkCell 1 0 (.hdb 2000)))).state

/-- Job 0 stands in this phase, at this attenuation and target, with this step number, stack, last Δ and timer. -/
def stands (u : State) (ph : Phase) (a : Atten) (target stepNo : Nat) (stack : List Atten) (delta : Option Nat)
    (t : JobTimerKind) (length : Nat) : Bool :=
  (u.job 0).any fun x => x.phase == ph && x.att == a && x.target == target && x.stepNo == stepNo && x.stack == stack &&
    x.lastDelta == delta && x.timer == some ⟨t, ⟨20000, length⟩⟩

/-- How a LIGHT job begins whose gate is free, and one whose gate another entry holds (R121, R127, R157). -/
theorem test_met_CellWritesAreJudged_light :
    stands (lit inService) .settling (.hdb 2500) 500 1 [.block] none .settle 200 = true ∧
      (lit inService).gate 4 .outward = some ⟨0, inService.newKey, 20000, 1, .block⟩ ∧
      (lit inService).grid 4 0 = ⟨.ramping, some 0, none, false, false⟩ ∧
      (let held := inService.setGate 4 .outward (some ⟨7, ⟨0x0022, 3, 1⟩, 19900, 1, .block⟩)
       stands (lit held) .waiting .block 500 0 [] none .retry 150 = true ∧ (lit held).gates = held.gates ∧
         (lit held).grid 4 0 = ⟨.reserved, some 0, none, false, false⟩) := by decide +kernel

/-- How a RAISE job begins that has a step, one with no room for the least step of its profile, and one whose floor is where
it starts (R121, R130, R157). -/
theorem test_met_CellWritesAreJudged_raise :
    stands (raised inService) .settling (.hdb 1990) 500 1 [.hdb 2000] (some 10) .settle 200 = true ∧
      (let tight : State := { inService with
        cfg.sensitivity := Table.fill 32 4000
        cfg.profiles := inService.cfg.profiles.set 0 { Profile.por with minStep := 20 } }
       stands (raised tight) .waiting (.hdb 2000) 500 0 [] none .wait 200 = true ∧ (raised tight).gates = tight.gates ∧
         ((raised tight).job 0).map Job.noRoomRun = some 1) ∧
      (let floored : State := { inService with
        cfg.node.perDegree := inService.cfg.node.perDegree.set 0 { DegreeSettings.por with floor := 2000 } }
       stands (raised floored) .unwinding (.hdb 2000) 2000 0 [] none .unwind 200 = true ∧
         ((raised floored).job 0).map Job.cause = some .floor) := by decide +kernel

/-- A write of one beat to a monitor word, with its snoop. -/
def oneWrite : FwdWrite :=
  ⟨⟨0x40001000, 1, .write [⟨0x10000, 15⟩]⟩,
    [⟨0x40001000, ⟨0x10000, 15⟩, some ⟨0x10000, 15⟩, false, none, some (.reading 1 .inward 0 0x10000)⟩], []⟩

/-- A write, answered OK and ERROR; a read of one word and of sixteen, one with the last word of record 0 in it. -/
theorem test_met_CompletionAnswersUpstream :
    (porting node (.write oneWrite)).shelf.bus.port = .write oneWrite ∧
      ((porting (node.resetBegins .resetn) (.ending oneWrite.txn)).Between ∧
        (porting (node.resetBegins .resetn) (.ending oneWrite.txn)).shelf.bus.port = .ending oneWrite.txn) ∧
      (let t := reads 0x40003100 16
       (porting node (.read t)).shelf.bus.port = .read t ∧ (List.replicate 16 (0 : Word)).length = t.burst.length ∧
         (∃ a ∈ beatAddrs t, windowOffset node.shelf.bus.winsel a = some (holdLast 0)) ∧
         ∀ a ∈ beatAddrs t, windowOffset node.shelf.bus.winsel a ≠ some (holdLast 9)) ∧
      (let t := reads 0x40005008 1
       (porting node (.read t)).shelf.bus.port = .read t ∧ ([] : List Word).length = 0 ∧ [(7 : Word)].length = t.burst.length ∧
         ∃ a ∈ beatAddrs t, windowOffset node.shelf.bus.winsel a = some (holdLast 9)) :=
  ⟨rfl, ⟨rfl, rfl⟩, ⟨rfl, rfl, some_mem (by decide +kernel), every_mem (by decide +kernel)⟩, rfl, rfl, rfl,
    some_mem (by decide +kernel)⟩

/-- Three masters that wait, three accepted behind the write that holds the port, and a status write pending to the first head's
first word: the completion lets one in, and blocks the head. -/
theorem test_met_CompletionAnswersUpstream_admits :
    let s : State := { bussed node [reads 0x40003100 1, reads 4 1, reads 8 1] (.write oneWrite)
        [⟨.d, 0x3100, 1, some 1, .status, []⟩] 0 with
      shelf.bus.offers := [reads 12 1, reads 16 1, reads 20 1] }
    let u := after (exec (.forwardedTransactionComplete true []) s)
    s.shelf.bus.port = .write oneWrite ∧ (reads 0x40003100 1).burst = .read 1 ∧
      u.shelf.bus.accepted.map UpTxn.addr = [0x40003100, 4, 8, 12] ∧ u.shelf.bus.offers.map UpTxn.addr = [16, 20] ∧
      u.shelf.bus.headWaits = [0x3100] := by
  decide +kernel

/-- A write of one beat that earned this snoop. -/
def snooped (x : Snoop) : FwdWrite := ⟨⟨0x40003000, 2, .write [⟨0, 15⟩]⟩, [⟨0x40003000, ⟨0, 15⟩, some ⟨0, 15⟩, false, none, some x⟩], []⟩

theorem copies_of_none {b : BusInterposer} {f : FwdWrite} (hf : f.foreignBeats = [])
    (h : b.port = .write f ∨ b.port = .checkRead f) : b.CopiesAreTheScanners := by
  rintro g hg - - -
  rcases h with h | h <;> rw [h] at hg <;> rcases hg with hg | hg <;> cases hg <;> exact hf

/-- A scanner's write that holds the port with its copy, at its check read and at its writes, and its answer. -/
theorem test_met_BusAndReportRingStayBounded_copies :
    let s (p : Port) : State := { porting node p with pending := [.forwardedTransactionComplete true []] }
    (s (.write oneWrite)).shelf.bus.CopiesAreTheScanners ∧ (s (.checkRead oneWrite)).shelf.bus.CopiesAreTheScanners ∧
      (oneWrite.beats.filterMap FwdBeat.snoop).any Snoop.isCopy = true ∧ ∃ t, step (s (.write oneWrite)) = .next t :=
  ⟨copies_of_none rfl (.inl rfl), copies_of_none rfl (.inr rfl), rfl, exists_next (by decide +kernel)⟩

/-- The first and the last word of each snooped region, and its neighbours; the scanner and another master; producer values 0,
31 and 32 in each state of the order reader; a foreign write of one word and of sixteen. -/
theorem test_met_SnoopsAreEarnedAndTaken :
    [0x40001000, 0x40001BFC, 0x40001C00, 0x40001C0C, 0x40003000, 0x40005004, 0x40000FFC, 0x3FFFFFFC].map (regionOf 0) =
        [.monitor 1 .inward 0, .monitor 4 .outward 95, .sweepHeader 1, .sweepHeader 4, .producerWord, .consumerWord,
          .ordinary, .outside] ∧
      node.cfg.node.scanner = 1 ∧
      (let t : UpTxn := ⟨0x40001BFC, 15, .write [⟨0, 15⟩, ⟨0, 15⟩]⟩
       let u := after (exec .forwardedWriteGrant (asked node t))
       exec .forwardedWriteGrant (asked node t) = .next u ∧ u.shelf.bus.port = .write (forwarded u.shelf.bus.port)) ∧
      (∀ n, (porting node (.write { oneWrite with foreignBeats := 0x40001000 :: List.replicate n 0 })).shelf.bus.port =
        .write { oneWrite with foreignBeats := 0x40001000 :: List.replicate n 0 }) ∧
      (∀ v, (snooped (.producer v 2)).beats.filterMap FwdBeat.snoop = [.producer v 2]) ∧
      (0 : Word).toNat < 32 ∧ (31 : Word).toNat < 32 ∧ 32 ≤ (32 : Word).toNat ∧
      (∀ r, ({ porting node (.write (snooped (.producer 31 2))) with ord := ⟨31, 0, none, r⟩ } : State).shelf.bus.port =
        .write (snooped (.producer 31 2))) :=
  ⟨by decide +kernel, rfl, ⟨next_after (by decide +kernel), by decide +kernel⟩, fun _ => rfl, fun _ => rfl, by decide,
    by decide, by decide, fun _ => rfl⟩

/-- A request of each class. -/
def reqA : PartReq := ⟨.a, cellOffset 2 40, 1, some 0x5FFF, .closing 0, []⟩
def reqC : PartReq := ⟨.c, cellOffset 2 41, 1, some 0x5320, .step headKey, []⟩
def reqD : PartReq := ⟨.d, 0x3100, 1, some 1, .status, []⟩

/-- Class (a) behind others with a head that waits; class (c) behind an older (d) at counts 0 and 3, with no head; the older (d) at
count 4, with none and with a head that waits; class (d) with a head that waits. -/
theorem test_met_PartRequestsAreGrantedByClass :
    (let s := bussed node [reads 0 1] .idle [reqD, reqC, reqA] 4
     s.Between ∧ s.shelf.bus.port = .idle ∧ s.shelf.bus.parts.find? (fun q => q.cls == .a) = some reqA) ∧
      (∀ n ∈ [0, 3], let s := bussed node [] .idle [reqD, reqC] n
       s.marks = Marks.none ∧ s.shelf.bus.port = .idle ∧ (∀ q ∈ s.shelf.bus.parts, q.cls ≠ .a) ∧ s.shelf.bus.accepted = [] ∧
         s.shelf.bus.bGrants < 4 ∧ s.shelf.bus.parts.find? (fun q => q.cls == .c) = some reqC) ∧
      (∀ as ∈ [[], [reads 0x40003100 1]],
        let s : State := { bussed node as .idle [reqD, reqC] 4 with shelf.bus.headWaits := as.map fun _ => 0x3100 }
        s.marks = Marks.none ∧ s.shelf.bus.port = .idle ∧ (∀ q ∈ s.shelf.bus.parts, q.cls ≠ .a) ∧
          (s.shelf.bus.headWaits ≠ [] ∨ s.shelf.bus.accepted = []) ∧ 4 ≤ s.shelf.bus.bGrants ∧
          s.shelf.bus.parts.head? = some reqD) ∧
      (let s : State := { bussed node [reads 0x40003100 1] .idle [reqD] 0 with shelf.bus.headWaits := [0x3100] }
       s.Between ∧ s.shelf.bus.port = .idle ∧ (∀ q ∈ s.shelf.bus.parts, q.cls ≠ .a ∧ q.cls ≠ .c) ∧
         s.shelf.bus.headWaits ≠ [] ∧ s.shelf.bus.bGrants < 4 ∧ s.shelf.bus.parts.head? = some reqD) :=
  ⟨⟨rfl, by decide +kernel⟩, by decide +kernel, by decide +kernel, rfl, by decide +kernel⟩

theorem test_met_ArbiterCountsForwardedGrants :
    (let s := bussed node [reads 0 1] .idle [reqD] 3
     (∃ u, exec .forwardedReadGrant s = .next u) ∧ s.shelf.bus.PartWaits) ∧
      (let s := bussed node [oneWrite.txn] .idle [] 4
       (∃ u, exec .forwardedWriteGrant s = .next u) ∧ ¬ s.shelf.bus.PartWaits ∧ s.shelf.bus.bGrants ≤ 4) ∧
      (∃ u, exec .partAccessGrant (bussed node [reads 0 1] .idle [reqA, reqD] 4) = .next u) ∧
      (let s := bussed node [reads 0 1] .idle [reqD, reqC] 4
       (∃ u, exec .partAccessGrant s = .next u) ∧ s.shelf.bus.port = .idle ∧ s.shelf.bus.bGrants = 4 ∧
         s.shelf.bus.PartWaits ∧ ∀ r ∈ s.shelf.bus.parts, r.cls ≠ .a) ∧
      (∃ u, exec .powerOnReset node = .next u) ∧ node.mode ≠ .inReset ∧ ∃ u, exec .resetnAsserted node = .next u :=
  ⟨⟨exists_next (by decide +kernel), reqD, by decide, by decide⟩,
    ⟨exists_next (by decide +kernel), (fun ⟨r, hr, _⟩ => by cases hr), by decide⟩, exists_next (by decide +kernel),
    ⟨exists_next (by decide +kernel), rfl, rfl, ⟨reqD, by decide, by decide⟩, by decide⟩,
    exists_next (by decide +kernel), by decide, exists_next (by decide +kernel)⟩

/-- The bus of a node whose report header's hold is open with two deferred values. -/
def heldBus (us : Nat) : State :=
  { node with
    clock := ⟨20000, us⟩
    shelf.bus := { node.shelf.bus with
      parts := [⟨.d, 0x5000, 1, some 1, .header, []⟩]
      holds := node.shelf.bus.holds.set 9 ⟨some ⟨20000, 0⟩, [(0x5000, 2), (0x5008, 3)]⟩ } }

/-- A deferred write to the first and the last word of a record; an expiry at 49 µs and at 50 µs. -/
theorem test_met_ReadHoldDefersUntilItCloses :
    (heldBus 50).shelf.bus.WritesOrdered ∧ (heldBus 49).shelf.bus.WritesOrdered ∧ (heldBus 50).Between ∧
      holdOf 0x5000 = some 9 ∧ holdOf 0x5008 = some 9 ∧ ((heldBus 50).shelf.bus.holds.get 9).opened.isSome = true ∧
      (heldBus 50).shelf.bus.holds.get 9 = ⟨some ⟨20000, 0⟩, [(0x5000, 2), (0x5008, 3)]⟩ ∧
      (heldBus 49).clock.microsSince ⟨20000, 0⟩ < 50 ∧ 50 ≤ (heldBus 50).clock.microsSince ⟨20000, 0⟩ := by
  have key : ∀ r, r < 10 → ((heldBus 50).shelf.bus.holds.get r).deferred.Pairwise (fun x y => x.1 < y.1) ∧
      (((heldBus 50).shelf.bus.holds.get r).opened = none → ((heldBus 50).shelf.bus.holds.get r).deferred = []) := by
    decide +kernel
  have w : (heldBus 50).shelf.bus.WritesOrdered :=
    ⟨by unfold BusInterposer.OneWritePerWord; decide +kernel, fun r hr => ⟨(key r hr).1, (key r hr).2⟩⟩
  exact ⟨w, w, rfl, by decide +kernel⟩

/-- A read of the header's last word and one of its first, each of them complete, with deferred values of words 0 and 2 and a
write pending to word 0: what the first makes pending, and that the second leaves the hold open. -/
theorem test_met_CompletionAnswersUpstream_releases :
    let s (a : Word) : State := porting (heldBus 49) (.read (reads a 1))
    let closes (a : Word) (r : Nat) : Bool :=
      (beatAddrs (reads a 1)).any fun x => windowOffset node.shelf.bus.winsel x == some (holdLast r)
    (s 0x40005008).Between ∧ (s 0x40005008).shelf.bus.WritesOrdered ∧ (reads 0x40005008 1).burst.length ≤ 16 ∧
      closes 0x40005008 9 = true ∧ (∀ r, r < 10 → closes 0x40005000 r = false) ∧
      ((after (exec (.forwardedTransactionComplete true [7]) (s 0x40005008))).shelf.bus.parts.map fun q =>
        (q.cls, q.offset, q.data)) = [(.d, 0x5000, some 2), (.d, 0x5008, some 3)] ∧
      (after (exec (.forwardedTransactionComplete true [7]) (s 0x40005000))).shelf.bus.parts = (heldBus 49).shelf.bus.parts :=
  have w := test_met_ReadHoldDefersUntilItCloses.2.1
  ⟨rfl, ⟨w.pending, w.deferred⟩, by decide +kernel⟩

/-! ## Witnesses: resets and adoption -/

theorem test_met_ResetsClearAllWork :
    node.mode ≠ .inReset ∧ (node.resetBegins .powerOn).mode = .inReset ∧
      (porting node (.checkRead oneWrite)).shelf.bus.port = .checkRead oneWrite ∧
      (porting node (.write oneWrite)).shelf.bus.port = .write oneWrite ∧
      (∀ p ∈ [Port.ending oneWrite.txn, .idle, .read (reads 0 1), .part reqA], (porting node p).shelf.bus.port = p) := by
  decide +kernel

/-- The value held, another, and ERROR, after either reset, in adoption. -/
theorem test_met_ProducerWordSetsTheConsumer :
    let r : PartReq := ⟨.d, 0x3000, 1, none, .producerWord, []⟩
    let s : State := { porting node (.part r) with mode := .adopting, adoption := ⟨0b1111, false⟩, ord := ⟨31, 31, none, .waiting⟩ }
    s.Between ∧ s.shelf.bus.port = .part r ∧ r.purpose = .producerWord ∧ r.replaced = [] ∧
      s.lastReset = .powerOn ∧ ({ s with lastReset := .resetn } : State).lastReset = .resetn ∧
      (32 : Word).toNat % 32 ≠ s.ord.consumer ∧ (some (63 : Word)).map (fun w => w.toNat % 32) = some s.ord.consumer ∧
      ({ s with cg.settlements := s.cg.settlements.set 0 .unread } : State).checkAdopted.mode = .adopting :=
  ⟨rfl, by decide +kernel⟩

/-- A cell being read, in adoption or in an intake. -/
def readingCell (m : Mode) (p : Purpose) : State :=
  { porting node (.part ⟨.d, 4, 1, none, p, []⟩) with mode := m }

/-- Cells (0, 0) and (4, 95) of adoption, (1, 0) of an intake, a discarded read; each kind of answer. -/
theorem test_met_CellReadAnswersSettleTheirCells :
    (∀ p ∈ [Purpose.adoptCell 0 0, .adoptCell 4 95, .intakeCell 1 0 false, .intakeCell 4 95 true],
        (readingCell .adopting p).shelf.bus.port = .part ⟨.d, 4, 1, none, p, []⟩) ∧
      (readingCell .running (.intakeCell 1 0 false)).Between ∧ cellLit 0 = false ∧ cellLit (mkCell 1 0 (.hdb 0)) = true ∧
      maskHas 0b1111 (cellSource (mkCell 4 0 (.hdb 2500))) = true ∧
      maskHas 0b1111 (cellSource (mkCell 5 0 (.hdb 2500))) = false ∧ cellLit (mkCell 5 0 (.hdb 2500)) = true :=
  ⟨by decide +kernel, rfl, by decide +kernel⟩

/-- The watch of a waiting cell. -/
def cellWatch (d : Nat) (dir : Dir) : CellWatch := ⟨d, dir, ⟨18500, 1500⟩, mkCell 1 0 (.hdb 820)⟩

/-- An adopting node with this at the port and cell (4, 95) so settled, every other cell settled, and a remembered index. -/
def adopting (p : Port) (producerRead : Bool) (x : Settlement) : State :=
  { porting node p with
    mode := .adopting, ord := ⟨31, 31, some 3, .waiting⟩, adoption := ⟨0b1111, producerRead⟩
    cg.settlements := node.cg.settlements.set (gridIndex 4 95) x }

/-- A node with degree 4 in intake, so far as its cell (4, 95) goes. -/
def taking (p : Port) (x : Settlement) : State :=
  { porting node p with cg.settlements := node.cg.settlements.set (gridIndex 4 95) x, cg.intakes := node.cg.intakes.set 3 true }

/-- A part read of this purpose. -/
def asksFor (p : Purpose) : PartReq := ⟨.d, 4, 1, none, p, []⟩

/-- What the port may hold here: a forwarded write, the producer word's read, or that of cell (4, 95) while it is unread. -/
def adoptingPort (p : Port) (x : Settlement) : Bool :=
  match p with
  | .part r =>
    match r.purpose with
    | .producerWord => true
    | .adoptCell e k => e == 4 && k == 95 && x == .unread
    | _ => false
  | .checkRead _ => false
  | _ => true

theorem adopting_owners {s : State} {p : Port} {b : Bool} {x : Settlement} (hs : ∃ c, s = { adopting p b x with msu := c })
    (hp : adoptingPort p x = true) : s.Between ∧ s.OwnersMatch ∧ s.WorkHasItsPlace := by
  obtain ⟨c, rfl⟩ := hs
  have he : ∀ q, State.entry { adopting p b x with msu := c } q = none := fun q => by
    cases h : State.entry { adopting p b x with msu := c } q with
    | none => rfl
    | some y =>
      have : State.entry { adopting p b x with msu := c } q = none := Table.get_fill _ _ (State.entry_lt h)
      rw [this] at h; cases h
  have hj : ∀ j, State.job { adopting p b x with msu := c } j = none := fun j => by
    cases h : State.job { adopting p b x with msu := c } j with
    | none => rfl
    | some y =>
      have : State.job { adopting p b x with msu := c } j = none := Table.get_fill _ _ (State.job_lt h)
      rw [this] at h; cases h
  have hg : ∀ e k, e ≤ 4 → k < 96 → State.grid { adopting p b x with msu := c } e k = GridEntry.freeEntry :=
    fun e k h1 h2 => Table.get_fill _ _ (by unfold gridIndex Config.gridEntries; omega)
  have hi : ∀ d, State.inIntake { adopting p b x with msu := c } d = false := fun d => by
    have : ∀ d, node.inIntake d = false := fun d => by
      by_cases h : d - 1 < 4
      · unfold State.inIntake
        rw [show node.cg.intakes.get (d - 1) = false from Table.get_fill _ _ h, Bool.and_false]
      · unfold State.inIntake
        rw [show node.cg.intakes.get (d - 1) = false from Table.get_of_le _ _ (by unfold Config.degrees; omega), Bool.and_false]
    exact this d
  have asks : ∀ r, BusInterposer.Asks (adopting p b x).shelf.bus r → p = .part r := fun r h =>
    h.resolve_right fun h => by cases h
  refine ⟨rfl, ⟨fun e k h1 h2 => ?_, ⟨fun e k h1 h2 h => ?_, fun q y h => ?_, fun q y h => ?_⟩,
    ⟨fun j y h => ?_, fun j y q h => ?_⟩, ⟨fun q y h => ?_, fun j y h => ?_, fun j y t h => ?_⟩,
    ⟨fun _ => he, fun _ => hj, fun _ => rfl, fun r h hr => ?_, fun h => by cases h⟩,
    ⟨fun e k h1 h2 _ => ⟨by rw [hg e k h1 h2]; rfl, governed_all rfl h1, fun h => by cases h⟩,
      fun d k h1 h2 h3 _ => by rw [hg d k h2 h3]; rfl, fun r e k h hr => ?_, fun r d k h hr => ?_, ?_⟩,
      fun f h => by obtain rfl := (show p = .checkRead f from h); cases hp⟩,
    ⟨fun j y h => ?_, fun _ => hi⟩⟩
  · rw [hg e k h1 h2]; exact ⟨by decide, by decide, by decide⟩
  · rw [hg e k h1 h2] at h; rcases h with h | h <;> cases h
  · rw [he] at h; cases h
  · rw [he] at h; cases h
  · rw [hj] at h; cases h
  · rw [hj] at h; cases h
  · rw [he] at h; cases h
  · rw [hj] at h; cases h
  · rw [hj] at h; cases h
  · obtain rfl := asks r h
    rcases hr with hr | hr <;> simp [adoptingPort, hr] at hp
  · obtain rfl := asks r h
    simp [adoptingPort, hr] at hp
    obtain ⟨⟨rfl, rfl⟩, rfl⟩ := hp
    exact ⟨by decide, by decide, rfl, Table.get_set_self _ _ _ (by decide)⟩
  · obtain rfl := asks r h
    simp [adoptingPort, hr] at hp
  · show List.Nodup (_ ++ [])
    rw [List.append_nil]
    cases p with
    | part r =>
      show List.Nodup r.purpose.readsCell.toList
      cases r.purpose.readsCell <;> simp
    | _ => exact List.nodup_nil
  · rw [hj] at h; cases h

/-- The command leaves every cell settled and the producer word answered. -/
def settledNext (c : Instr) (s : State) : Bool :=
  let u := after (exec c s)
  u.adoption.producerRead && u.cg.settlements.cells.all (· == .settled)

/-- Each event that can end adoption, where it does and where it does not: the producer word answered with every cell
settled and with one unread, a cell's answer with the producer word answered and not, a settle deadline, and a sweep header
of degree 4; each kind of answer. -/
theorem test_met_AdoptionAndIntakesEnd :
    let dark : State → State := fun s => s.setSnap 4 .outward 95 ⟨.dark, none, 0, some 20000, false, .pending⟩
    let cell := asksFor (.adoptCell 4 95)
    let word := asksFor .producerWord
    let waits : Settlement := .waiting (cellWatch 4 .outward)
    (∀ x ∈ [Settlement.settled, .unread],
        (adopting (.part word) false x).Between ∧ (adopting (.part word) false x).OwnersMatch ∧
          (adopting (.part word) false x).WorkHasItsPlace) ∧
      (∀ b ∈ [true, false],
        (adopting (.part cell) b .unread).Between ∧ (adopting (.part cell) b .unread).OwnersMatch ∧
          (adopting (.part cell) b .unread).WorkHasItsPlace) ∧
      (∀ b ∈ [true, false], let s := dark (adopting (.write (snooped (.header 4 9))) b waits)
        s.Between ∧ s.OwnersMatch ∧ s.WorkHasItsPlace ∧ s.settlement 4 95 = waits ∧ s.shelf.bus.CopiesAreTheScanners ∧
          (snooped (.header 4 9)).beats.filterMap FwdBeat.snoop = [.header 4 9]) ∧
      node.Past (cellWatch 4 .outward).deadline.start (cellWatch 4 .outward).deadline.length ∧
      [settledNext (.producerWordReadAnswer (some 35)) (adopting (.part word) false .settled),
        settledNext (.producerWordReadAnswer none) (adopting (.part word) false .settled),
        settledNext (.producerWordReadAnswer none) (adopting (.part word) false .unread),
        settledNext (.adoptionCellReadAnswer (some 0)) (adopting (.part cell) true .unread),
        settledNext (.adoptionCellReadAnswer none) (adopting (.part cell) true .unread),
        settledNext (.adoptionCellReadAnswer (some (mkCell 1 0 (.hdb 820)))) (adopting (.part cell) true .unread),
        settledNext (.adoptionCellReadAnswer none) (adopting (.part cell) false .unread),
        settledNext (.adoptionSettleDeadline 4 95) (adopting .idle true waits),
        settledNext (.adoptionSettleDeadline 4 95) (adopting .idle false waits),
        settledNext (.forwardedTransactionComplete true []) (dark (adopting (.write (snooped (.header 4 9))) true waits)),
        settledNext (.forwardedTransactionComplete true []) (adopting (.write (snooped (.header 3 9))) true waits)] =
        [true, true, false, true, true, false, false, true, false, true, false] := by
  have own (p : Port) (b : Bool) (x : Settlement) (hp : adoptingPort p x = true) :
      (adopting p b x).Between ∧ (adopting p b x).OwnersMatch ∧ (adopting p b x).WorkHasItsPlace :=
    adopting_owners ⟨(adopting p b x).msu, rfl⟩ hp
  refine ⟨fun x _ => own _ _ _ rfl, fun b _ => own _ _ _ rfl, fun b _ => ?_,
    by unfold State.Past; decide +kernel, by decide +kernel⟩
  have := adopting_owners (b := b) (p := .write (snooped (.header 4 9))) (x := .waiting (cellWatch 4 .outward))
    ⟨((adopting (.write (snooped (.header 4 9))) b (.waiting (cellWatch 4 .outward))).setSnap 4 .outward 95
      ⟨.dark, none, 0, some 20000, false, .pending⟩).msu, rfl⟩ rfl
  exact ⟨this.1, this.2.1, this.2.2, Table.get_set_self _ _ _ (by decide),
    copies_of_none rfl (.inl rfl), rfl⟩

/-- Each event that can end an intake, where it does and where it does not. -/
theorem test_met_AdoptionAndIntakesEnd_intake :
    let dark : State → State := fun s => s.setSnap 4 .outward 95 ⟨.dark, none, 0, some 20000, false, .pending⟩
    let cell := asksFor (.intakeCell 4 95 false)
    let waits : Settlement := .waiting (cellWatch 4 .outward)
    let ends (c : Instr) (s : State) : Bool := !(after (exec c s)).inIntake 4
    let s := dark (taking (.write (snooped (.header 4 9))) waits)
    ((taking (.part cell) .unread).inIntake 4 = true ∧ s.inIntake 4 = true ∧ s.mode = .running) ∧
      s.shelf.bus.port = .write (snooped (.header 4 9)) ∧ s.settlement 4 95 = waits ∧
      (snooped (.header 4 9)).beats.filterMap FwdBeat.snoop = [.header 4 9] ∧
      [ends (.intakeCellReadAnswer (some 0)) (taking (.part cell) .unread),
        ends (.intakeCellReadAnswer none) (taking (.part cell) .unread),
        ends (.intakeCellReadAnswer (some (mkCell 1 0 (.hdb 820)))) (taking (.part cell) .unread),
        ends (.intakeSettleDeadline 4 95) (taking .idle waits), ends (.forwardedTransactionComplete true []) s,
        ends (.intakeSettleDeadline 4 95) ((taking .idle waits).setSettlement 4 0 .unread)] =
        [true, true, false, true, true, false] := by
  decide +kernel

/-- At the deadline and 1 ms before it, for cells (0, 0) and (4, 95); an intake of degree 1; the four classes at a header. -/
theorem test_met_WaitingCellsAreSettled :
    (let s : State := { (node.setSettlement 0 0 (.waiting (cellWatch 1 .inward))).setSettlement 4 95
        (.waiting (cellWatch 4 .outward)) with mode := .adopting }
     s.Between ∧ s.settlement 0 0 = .waiting (cellWatch 1 .inward) ∧ s.settlement 4 95 = .waiting (cellWatch 4 .outward) ∧
       (cellWatch 4 .outward).deadline.due s.now = true ∧ (cellWatch 4 .outward).deadline.due 19999 = false) ∧
      (let s : State := { node.setSettlement 1 0 (.waiting (cellWatch 1 .outward)) with
        cg.intakes := node.cg.intakes.set 0 true }
       s.Between ∧ s.inIntake 1 = true ∧ s.settlement 1 0 = .waiting (cellWatch 1 .outward)) ∧
      (let s := (node.setSettlement 2 7 (.waiting (cellWatch 2 .outward))).setSnap 2 .outward 7
        ⟨.dark, none, 0, some 20000, false, .pending⟩
       s.settlement 2 7 = .waiting (cellWatch 2 .outward) ∧ (s.reading 2 .outward 7).cls = .dark ∧
         s.settlement 2 8 = .settled) :=
  ⟨⟨rfl, by decide +kernel⟩, ⟨rfl, by decide +kernel⟩, by decide +kernel⟩

/-- A sweep header of degree d taken at FORWARDED_TRANSACTION_COMPLETE, with a cell that waits for it in its intake. -/
theorem test_met_WaitingCellsAreSettled_header :
    let f := snooped (.header 2 9)
    let s : State := { porting (node.setSettlement 2 7 (.waiting (cellWatch 2 .outward))) (.write f) with
      cg.intakes := node.cg.intakes.set 1 true }
    s.shelf.bus.port = .write f ∧ f.beats.filterMap FwdBeat.snoop = [.header 2 9] ∧ s.OwnersMatch ∧
      s.settlement 2 7 = .waiting (cellWatch 2 .outward) ∧ ∀ w, s.settlement 1 7 = .waiting w → w.degree ≠ 2 :=
  ⟨rfl, rfl, ownersMatch_of_check (by decide +kernel), by decide +kernel, fun w h => by
    rw [show State.settlement _ 1 7 = .settled by decide +kernel] at h; cases h⟩

/-- Words 0 to 2 of a TURN_UP. -/
def turnUpStart : List Word := [1, 0x77, 0x000C1F4]

/-! ## Witnesses: the snapshot, the measurement service, the drift watch, the report ring -/

/-- The class and the level of a word as the statement reads them. -/
def wordParts (w : Word) : Nat × Int :=
  (w.toNat / 65536 % 4, if w.toNat % 65536 < 32768 then (w.toNat % 65536 : Nat) else (w.toNat % 65536 : Nat) - 65536)

/-- The four classes, FINITE at −6001, −6000, 2500 and 2501. -/
theorem test_met_SnoopedReadingRewritesItsEntry :
    wordParts 0 = (0, 0) ∧ wordParts 0x1E88F = (1, -6001) ∧ wordParts 0x1E890 = (1, -6000) ∧ wordParts 0x109C4 = (1, 2500) ∧
      wordParts 0x109C5 = (1, 2501) ∧ wordParts 0x20000 = (2, 0) ∧ wordParts 0x30000 = (3, 0) := by decide +kernel

/-- The node with entry (4, OUT, 95) snooped at 14000, 1 ms after that, and expired; at 6000, 5999 and 1500 ms of age. -/
theorem test_met_HeadersTagAndEntriesAge :
    let x : SnapEntry := ⟨.finite, some (-410), 7, some 14000, false, .pending⟩
    let s (y : SnapEntry) : State := node.setSnap 4 .outward 95 y
    (s x).Between ∧ ((s x).snap 4 .outward 95).tag = .pending ∧ ((s x).snap 4 .outward 95).snoop = some 14000 ∧
      ((s x).snap 4 .outward 95).expired = false ∧ 6000 ≤ ((s x).now - 14000).toNat ∧
      ((s { x with snoop := some 14001 }).now - 14001).toNat < 6000 ∧
      ((s { x with expired := true }).snap 4 .outward 95).expired = true ∧ (node.snap 1 .inward 0).snoop = none ∧
      ((s { x with snoop := some 18500 }).now - 18500).toNat ≤ 3 * node.period ∧
      3 * node.period < ((s { x with snoop := some 18499 }).now - 18499).toNat := ⟨rfl, by decide +kernel⟩

/-- A measurement whose deadline is reached at 20000. -/
def measurement : Measurement :=
  ⟨3, .outward, 1, .inward, 40, 12, .hdb 2000, 1500, some 7, some 9, ⟨18500, 1500⟩, none, none⟩

/-- A participation that measures. -/
def measuringEntry (role : Role) : Participation :=
  { hopEntry role with measurement := some measurement, cycle := some ⟨2, .hdb 2000, 500⟩ }

/-- The node with this participation and its measurement, at a sweep header of degree 3. -/
def sweeping (x : Participation) : State := porting (serving x) (.write (snooped (.header 3 8)))

/-- Reference channels 1 to 4 of degree 3, outward, read FINITE, DARK, OVER and STALE. -/
def referred : State :=
  (((sweeping { measuringEntry .transit with refs := [⟨1, -300⟩, ⟨2, -300⟩, ⟨3, -300⟩, ⟨4, -300⟩] }).setSnap
    3 .outward 1 ⟨.finite, some (-260), 0, some 19900, false, .pending⟩).setSnap
    3 .outward 2 ⟨.dark, none, 0, some 19900, false, .number 8⟩).setSnap
    3 .outward 3 ⟨.over, none, 0, some 19900, false, .pending⟩

/-- Marks earlier and not earlier across the wrap, both parts open, one, and the readings of each result; the deadline at
18500 + 1500 and 1 ms before. -/
theorem test_met_MeasurementsAreComputedAndDelivered :
    let f := snooped (.header 3 8)
    (referred.shelf.bus.port = .write f ∧ f.beats.filterMap FwdBeat.snoop = [.header 3 8] ∧
        (∀ r ∈ (measuringEntry .transit).refs, r.slot < 96) ∧ measurement.slot < 96 ∧ measurement.devDegree = 3 ∧
        measurement.contDegree = 1) ∧
      (1 ≤ ((8 : BitVec 16) - 7).toNat ∧ ((8 : BitVec 16) - 7).toNat ≤ 32767 ∧ ((8 : BitVec 16) - 8).toNat = 0 ∧
        ((0 : BitVec 16) - 0xFFFF).toNat = 1 ∧ ((0x8007 : BitVec 16) - 8).toNat = 32767 ∧ 32767 < ((0x8008 : BitVec 16) - 8).toNat) ∧
      ((referred.reading 3 .outward 1).cls = .finite ∧ (referred.reading 3 .outward 2).cls = .dark ∧
        (referred.reading 3 .outward 3).cls = .over ∧ (referred.reading 3 .outward 4).cls = .stale ∧
        (referred.snap 3 .outward 4).tag ≠ .number 8 ∧ (referred.snap 3 .outward 4).tag ≠ .pending) ∧
      (∀ k, k < 32 → k ≠ 0 → referred.entry k = none) ∧
      (∃ y m, referred.entry 0 = some y ∧ y.measurement = some m ∧ m.dev = none ∧ m.cont = none) ∧
      node.Between ∧ node.measurementDue 31 = false ∧
      (let s := serving (measuringEntry .transit)
       s.Between ∧ s.measurementDue 0 = true ∧ s.entry 0 = some (measuringEntry .transit) ∧
         measurement.deadline.length ≤ (s.now - measurement.deadline.start).toNat ∧
         ({ s with clock := ⟨19999, 999⟩ } : State).measurementDue 0 = false) ∧
      (let s := serving (measuringEntry .tail)
       s.Between ∧ s.entry 0 = some (measuringEntry .tail) ∧ (s.link 1).state = .up ∧ (s.link 1).queue.length < 8) :=
  ⟨by decide +kernel, by decide +kernel, by decide +kernel, by decide +kernel, ⟨_, _, rfl, rfl, rfl, rfl⟩, rfl,
    by decide +kernel, ⟨rfl, by decide +kernel⟩, rfl, by decide +kernel⟩

/-- The invariants that its clauses ask for hold there, and where a head measures. -/
theorem test_met_MeasurementsAreComputedAndDelivered_owners :
    referred.OwnersMatch ∧ referred.SnapshotShaped ∧ (serving (measuringEntry .tail)).OwnersMatch := by
  refine ⟨ownersMatch_of_check (by decide +kernel), fun i _ => ?_, ownersMatch_of_check (by decide +kernel)⟩
  have key : ∀ x ∈ referred.msu.entries.cells, (∀ l ∈ x.level, x.cls = .finite ∧ -6000 ≤ l ∧ l ≤ 2500) ∧
      (x.cls = .finite → x.level.isSome = true) ∧ x.pilot ≤ 4095 := by decide +kernel
  exact Table.forall_get referred.msu.entries SnapEntry.Shaped ⟨fun l h => (by cases h), by decide, by decide⟩
    (fun x hx => ⟨(key x hx).1, (key x hx).2.1, (key x hx).2.2⟩) _

/-- Degree 3 of section 3.6 with each class of reading, a level 100 and 101 from its commit level, and one without. -/
theorem test_met_DriftWatchJudgesServiceEntries :
    driftNode.Between ∧ driftNode.watch 3 = some ⟨20000, 2000⟩ ∧ (2000 : Nat) ≤ (driftNode.now - 20000).toNat ∧
      (({ driftNode with clock := ⟨21999, 0⟩ } : State).now - 20000).toNat < 2000 ∧
      (driftNode.grid 3 0).state ≠ .inService ∧ (driftNode.grid 3 12).state = .inService ∧
      (driftNode.reading 3 .outward 12).level = some (-250) ∧ (driftNode.grid 3 12).commitLevel = some (-262) ∧
      (driftNode.reading 3 .outward 39).cls = .dark ∧ (driftNode.reading 3 .outward 95).cls = .stale ∧
      ((-410 : Int) - -310).natAbs ≤ (driftNode.degree 3).driftLimit ∧
      (driftNode.degree 3).driftLimit < ((-411 : Int) - -310).natAbs := ⟨rfl, by decide +kernel⟩

/-- The copy itself, the producer index, and the values just outside the range; a consumer value, the last answer of a record and a
SET_NODE as commands. -/
theorem test_met_ConsumerValueAndAttn :
    let onRange (v : Word) : Bool :=
      decide (v.toNat ≤ 127 ∧ ((v.toNat : Int) - busy.shelf.rw.consumer) % 128 ≤
        ((busy.shelf.rw.producer : Int) - busy.shelf.rw.consumer) % 128)
    let f (v : Word) := snooped (.consumer v)
    let last : PartReq := ⟨.d, 0x4000, 1, some 0, .record, []⟩
    let s : State := { porting busy (.part last) with shelf.rw := { busy.shelf.rw with flight := some ⟨default, 1, false⟩ } }
    let w : State := ordered node [9, 0, 0x000F0011]
    (busy.shelf.Bounded ∧ (porting busy (.write (f 5))).shelf.Bounded) ∧ onRange 5 = true ∧ onRange 127 = true ∧
      onRange 128 = false ∧ onRange 4 = false ∧ (f 5).beats.filterMap FwdBeat.snoop = [.consumer 5] ∧
      (s.shelf.bus.port = .part last ∧ last.replaced = [] ∧ last.purpose = .record ∧
        s.shelf.rw.flight = some ⟨default, 1, false⟩ ∧ (s.shelf.rw.producer + 1) % 128 ≠ s.shelf.rw.consumer) ∧
      (w.AwaitsOrder ∧ upper0.length = 16 ∧ orderKind (w.orderWith upper0) = 9 ∧
        w.setNodeRefusal (rawSettings (w.orderWith upper0)) = none) ∧
      (∃ u, exec .powerOnReset node = .next u) ∧ node.mode ≠ .inReset ∧ ∃ u, exec .resetnAsserted node = .next u :=
  ⟨⟨test_met_BusAndReportRingStayBounded.1, ⟨by decide +kernel, by decide, by decide, by decide, by decide, by decide +kernel,
      fun f h => by cases h; decide⟩⟩, by decide +kernel, by decide +kernel, by decide +kernel, by decide +kernel, rfl,
    ⟨rfl, rfl, rfl, rfl, by decide⟩, ⟨⟨_, rfl, rfl⟩, rfl, by decide +kernel, by decide +kernel⟩,
    exists_next (by decide +kernel), by decide, exists_next (by decide +kernel)⟩

/-- A RUNNING node at commands that start a job, change one, end one and change none; records with a closed and an open hold,
first written and written before; jobs in every phase, ended and not. -/
theorem test_met_StatusRecordsFollowTheState :
    (∀ r, r < 9 → (node.shelf.rw.books.get r).last.isNone = decide (r ≠ 0)) ∧ (List.replicate 16 (0 : Word)).length = 16 ∧
      ((node.shelf.bus.holds.get 0).opened = none ∧ ((heldBus 0).shelf.bus.holds.get 9).opened.isSome = true) ∧
      (let s := ordered node (turnUpStart ++ [0x0228, 0x00200011, 0x00010012])
       s.Between ∧ s.mode = .running ∧ (∃ t, exec (.turnUp upper0) s = .next t) ∧ s.job 0 = none ∧
         ((after (exec (.turnUp upper0) s)).job 0).isSome = true) ∧
      (let s := leading (headJob .committing (.hdb 500))
       s.Between ∧ s.mode = .running ∧ (∃ t, exec (.committed 2 headKey 0) s = .next t) ∧
         s.job 1 = some (headJob .committing (.hdb 500)) ∧ (after (exec (.committed 2 headKey 0) s)).job 1 = none) ∧
      (∃ t, exec .freshPeriodEnd node = .next t) ∧
      (headJob .waiting .block).stack.head? = some .block ∧ (headJob .waiting .block).startAtt = some 2000 ∧
      (headJob .waiting .block).hops.find? (fun h => h.hop == (headJob .waiting .block).limiting) =
        some ⟨0, 0x0011, 60, 120, 5, 0, .ok, .lit, 2, 1000, none⟩ :=
  ⟨by decide +kernel, rfl, ⟨rfl, rfl⟩, ⟨rfl, rfl, exists_next (by decide +kernel), rfl, by decide +kernel⟩,
    ⟨rfl, rfl, exists_next (by decide +kernel), rfl, by decide +kernel⟩, exists_next (by decide +kernel), rfl, rfl,
    by decide +kernel⟩

/-! ## Witnesses: orders -/

/-- Every kind code at its ends, with an upper half of sixteen words; the two reads in flight. -/
theorem test_met_EveryOrderAdvancesTheRing :
    (ordered node [1]).AwaitsOrder ∧ upper0.length = 16 ∧
      ((List.range 11 ++ [255]).all fun k =>
        orderKind ((ordered node [BitVec.ofNat 32 k]).orderWith upper0) == k) = true ∧
      (∃ r, (ordered node [1]).shelf.bus.port = .part r ∧ r.replaced = [] ∧ r.purpose = .orderUpper) ∧
      ∃ r, (answering node 0x2000 .orderLower).shelf.bus.port = .part r ∧ r.replaced = [] ∧ r.purpose = .orderLower :=
  ⟨⟨_, rfl, rfl⟩, rfl, by decide +kernel, ⟨_, rfl, rfl, rfl⟩, _, rfl, rfl, rfl⟩

/-- The conditions of TURN_UP's checks, in order, as the statement reads them. -/
def turnUpChecks (s : State) (r : OrderRecord) : List Bool :=
  let n := (orderWord r 3).toNat / 256 % 32
  let slot := (orderWord r 3).toNat % 128
  let node (i : Nat) := (orderWord r (4 + i)).toNat % 65536
  let ingress (i : Nat) := (orderWord r (4 + i)).toNat / 65536 % 8
  let egress (i : Nat) := (orderWord r (4 + i)).toNat / 1048576 % 8
  [decide (2 ≤ n ∧ n ≤ 16), decide (node 0 = s.cfg.node.nodeId.toNat ∧ ingress 0 = 0),
    decide (egress (n - 1) = 0 ∧ ∀ i, i < n - 1 → egress i ≠ 0),
    decide (∀ i, i < n → node i ≠ 0 ∧ node i ≠ 65535 ∧ ingress i ≤ 4 ∧ egress i ≤ 4 ∧ (i ≠ 0 → ingress i ≠ 0) ∧
      ingress i ≠ egress i),
    decide (∀ j, j < n → ∀ i, i < j → node i ≠ node j), decide (slot < 96), s.isEquipped (egress 0),
    decide (s.liveJobs < 8 ∧ s.liveEntries < 32), decide ((s.grid (egress 0) slot).state = .free),
    s.isSettled (egress 0), decide ((s.link (egress 0)).state = .up)]

/-- The first words of a TURN_UP, with this word 3 and this path. -/
def turnUpWords (w3 : Word) (path : List Word) : List Word := turnUpStart ++ [w3] ++ path

/-- The path of the head job to degree 2 and the node 0x0012. -/
def goodPath : List Word := [0x00200011, 0x00010012]

/-- The node with this order being read, and which of its checks is the first that fails. -/
def firstFailure (s : State) (lower : List Word) : Nat :=
  ((turnUpChecks s ((ordered s lower).orderWith upper0)).takeWhile id).length

/-- A witness for the refusal of every check in turn: a path of 1 and of 17 nodes; another head node, an ingress; a tail
with an egress; a node 0, a repeated node; slot 96; an absent degree; every job live; an owned cell; a drifting degree; a
link DOWN. -/
theorem test_met_TurnUpIsRefusedAtTheFirstCheck :
    (ordered node (turnUpWords 0x0228 goodPath)).AwaitsOrder ∧ upper0.length = 16 ∧
      orderKind ((ordered node (turnUpWords 0x0228 goodPath)).orderWith upper0) = 1 ∧
      [firstFailure node (turnUpWords 0x0128 goodPath), firstFailure node (turnUpWords 0x1128 goodPath),
        firstFailure node (turnUpWords 0x0228 [0x00200012, 0x00010013]), firstFailure node (turnUpWords 0x0228 [0x00210011]),
        firstFailure node (turnUpWords 0x0228 [0x00200011, 0x00210012]),
        firstFailure node (turnUpWords 0x0228 [0x00200011, 0x00010000]),
        firstFailure node (turnUpWords 0x0228 [0x00200011, 0x00010011]), firstFailure node (turnUpWords 0x0260 goodPath),
        firstFailure { node with cfg.node.equipped := 0b1101 } (turnUpWords 0x0228 goodPath),
        firstFailure { node with jobs := Table.fill 8 (some default) } (turnUpWords 0x0228 goodPath),
        firstFailure (leading (headJob .waiting .block)) (turnUpWords 0x0228 goodPath),
        firstFailure (node.setGrid 2 41 ⟨.inService, none, none, true, false⟩) (turnUpWords 0x0228 goodPath),
        firstFailure (node.setLink 2 Link.started) (turnUpWords 0x0228 goodPath),
        firstFailure node (turnUpWords 0x0228 goodPath)] = [0, 0, 1, 1, 2, 3, 4, 5, 6, 7, 8, 9, 10, 11] := by
  exact ⟨⟨_, rfl, rfl⟩, rfl, by decide +kernel⟩

theorem node_gates_held (s : State) (he : s.pa.entries = node.pa.entries) (hg : s.gates = node.gates) :
    s.GatesHeldByWatchers := by
  refine ⟨fun p x h => ?_, fun d dir h hd hd' e => ?_⟩
  · have hp := State.entry_lt h
    have : s.entry p = none := by unfold State.entry; rw [he]; exact Table.get_fill _ _ hp
    rw [this] at h; cases h
  · have : s.gate d dir = none := by
      unfold State.gate; rw [hg]
      exact Table.get_fill _ _ (by unfold gateIndex Config.gates; cases dir <;> simp [Dir.code] <;> omega)
    rw [this] at e; cases e

theorem test_met_AcceptedTurnUpStartsItsJob :
    let s := ordered node (turnUpWords 0x0228 goodPath)
    s.AwaitsOrder ∧ upper0.length = 16 ∧ orderKind (s.orderWith upper0) = 1 ∧
      s.turnUpRefusal (turnUpOf (s.orderWith upper0)) = none ∧ s.GatesHeldByWatchers ∧ (s.link 2).queue.length < 8 :=
  ⟨⟨_, rfl, rfl⟩, rfl, by decide +kernel, by decide +kernel, node_gates_held _ rfl rfl, by decide +kernel⟩

/-- The phases in which SUSPEND, RESUME and ABORT differ. -/
def allPhases : List Phase := [.claiming, .gating, .settling, .measuring, .waiting, .suspended, .unwinding, .committing]

/-- The orders of kinds 2 to 4 for job 1, and an immediate ABORT, with the job in each phase, closing, and absent. -/
theorem test_met_JobOrdersActByPhase :
    (∀ ph ∈ allPhases,
        (ordered (leading (headJob ph (.hdb 2000))) [2, 0, 1]).job 1 = some (headJob ph (.hdb 2000))) ∧
      (ordered (leading { headJob .unwinding .block with closing := true }) [4, 0, 1]).job 1 =
        some { headJob .unwinding .block with closing := true } ∧
      (ordered node [4, 0, 7]).job 7 = none ∧ (ordered node [2, 0, 1]).AwaitsOrder ∧ upper0.length = 16 ∧
      (headJob .waiting (.hdb 2000)).closing = false ∧ (headJob .waiting (.hdb 2000)).att ≠ .block ∧
      (∀ ph ∈ allPhases, (ordered (leading (headJob ph .block)) [4, 0, 1]).job 1 = some (headJob ph .block)) ∧
      [2, 3, 4].all (fun k => orderKind ((ordered node [BitVec.ofNat 32 k, 0, 0x101]).orderWith upper0) == k) = true ∧
      (orderWord ((ordered node [4, 0, 0x101]).orderWith upper0) 2).toNat / 256 % 2 = 1 :=
  ⟨by decide +kernel, by decide +kernel, by decide +kernel, ⟨_, rfl, rfl⟩, rfl, by decide +kernel⟩

/-- RELEASE of (0, 0), (4, 95), (5, 0) and (0, 96); CLEAR_WATCH of an equipped degree and of 0. -/
theorem test_met_ReleaseAndClearWatchActOnTheGrid :
    let q : GridEntry := ⟨.quarantined, none, none, false, false⟩
    let s (lower : List Word) : State := ordered ((node.setGrid 0 0 q).setGrid 4 95 q) lower
    let names (lower : List Word) : Nat × Nat :=
      ((orderWord ((s lower).orderWith upper0) 2).toNat % 8, (orderWord ((s lower).orderWith upper0) 2).toNat / 256 % 128)
    (s [5]).AwaitsOrder ∧ upper0.length = 16 ∧ orderKind ((s [5]).orderWith upper0) = 5 ∧
      orderKind ((s [6]).orderWith upper0) = 6 ∧ names [5, 0, 0] = (0, 0) ∧ names [5, 0, 0x5F04] = (4, 95) ∧
      names [5, 0, 5] = (5, 0) ∧ names [5, 0, 0x6000] = (0, 96) ∧ ((s []).grid 0 0).state = .quarantined ∧
      ((s []).grid 4 95).state = .quarantined ∧ ((s []).grid 1 0).state ≠ .quarantined ∧
      driftNode.isEquipped 3 = true ∧ driftNode.isEquipped 0 = false ∧ driftNode.isEquipped 5 = false ∧
      (driftNode.grid 3 38).state = .inService ∧ ((after (exec (.driftWatchExpiry 3) driftNode)).grid 3 38).drift = true :=
  ⟨⟨_, rfl, rfl⟩, rfl, by decide +kernel⟩

theorem test_met_LoadedProfileAndTableAreClamped :
    (ordered node [7, 0, 3]).AwaitsOrder ∧ upper0.length = 16 ∧
      orderKind ((ordered node [7, 0, 3]).orderWith upper0) = 7 ∧
      orderKind ((ordered node [8, 0, 0x0FA10FA0]).orderWith upper0) = 8 := ⟨⟨_, rfl, rfl⟩, rfl, by decide +kernel⟩

/-- Node ID 65535; a change of the mask with and without live work; the same node ID and mask with live work. Degree 4
leaves the mask 0x7 that it was in, and joins it again. -/
theorem test_met_SetNodeReplacesTheSettings :
    let s := ordered (leading (headJob .waiting .block)) [9, 0, 0x000F0011]
    let named (w : Word) : Nat × Nat :=
      let r := (ordered node [9, 0, w]).orderWith upper0
      ((orderWord r 2).toNat % 65536, (orderWord r 2).toNat / 65536 % 16)
    s.AwaitsOrder ∧ upper0.length = 16 ∧ orderKind (s.orderWith upper0) = 9 ∧ named 0x000FFFFF = (65535, 15) ∧
      named 0x00070011 = (17, 7) ∧ named 0x000F0011 = (17, 15) ∧ s.liveEntries ≠ 0 ∧
      s.cfg.node.nodeId = 17 ∧ s.cfg.node.equipped = 15 ∧ node.liveEntries = 0 ∧ node.liveJobs = 0 ∧ node.pa.returns = [] ∧
      node.isEquipped 4 = true ∧ maskHas 7 4 = false ∧ (node.link 4).state = .up ∧
      ({ node with cfg.node.equipped := 7 } : State).isEquipped 4 = false ∧ maskHas 15 4 = true :=
  ⟨⟨_, rfl, rfl⟩, rfl, by decide +kernel⟩

/-! ## Witnesses: links -/

theorem node_jobs_have_entries (s : State) (hj : s.jobs = node.jobs) : s.JobsHaveEntries := by
  have : ∀ j, j < 8 → s.job j = none := fun j h => by unfold State.job; rw [hj]; exact Table.get_fill _ _ h
  refine ⟨fun j x h => ?_, fun j x p h _ => ?_⟩ <;> · rw [this j (State.job_lt h)] at h; cases h

/-- The node with this link of degree 1. -/
def linked (l : Link) : State := node.setLink 1 l

/-- The timers at 350, 100 and 1000 ms and 1 ms before; a frame of no bytes; a DISABLED link; in reset. -/
theorem test_met_LinkTimersAndBadFrames :
    let s := linked ⟨.up, some 19650, some 19900, [], .notFresh, 65535⟩
    let t := linked ⟨.up, some 19651, some 19901, List.replicate 8 (.alive 0), .fresh, 0⟩
    s.Between ∧ decodeFrame [] = none ∧ s.mode ≠ .inReset ∧ (s.link 1).state = .up ∧ (s.link 1).heardAt = some 19650 ∧
      350 ≤ (s.now - 19650).toNat ∧ (t.now - 19651).toNat < 350 ∧ s.JobsHaveEntries ∧
      (s.link 1).aliveFrom = some 19900 ∧ 100 ≤ (s.now - 19900).toNat ∧ (t.now - 19901).toNat < 100 ∧
      (linked Link.silent).link 1 = Link.silent ∧ Link.silent.state = .disabled ∧
      (let u : State := { node with slc.freshFrom := some 19000 }
       u.Between ∧ 1000 ≤ (u.now - 19000).toNat ∧ (u.now - 19001).toNat < 1000) :=
  ⟨rfl, by decide +kernel, by decide, rfl, by decide +kernel, by decide, by decide, node_jobs_have_entries _ rfl,
    by decide +kernel, by decide, by decide, by decide +kernel, rfl, rfl, by decide, by decide⟩

/-- UP and not a restart, UP and a restart, DOWN, DISABLED. -/
theorem test_met_AliveSetsTheNeighbourRecord :
    let s (st : LinkState) (n : NeighbourFresh) : State := linked ⟨st, some 19900, some 19950, [], n, 0⟩
    (∀ st ∈ [LinkState.up, .down, .disabled], ∀ n ∈ [NeighbourFresh.notFresh, .fresh, .unknown],
        ((s st n).link 1).state = st ∧ ((s st n).link 1).neighbour = n ∧ (s st n).mode ≠ .inReset) ∧
      (s .up .notFresh).Between ∧ (s .up .notFresh).JobsHaveEntries ∧ (1 : Byte).toNat % 2 = 1 ∧ (254 : Byte).toNat % 2 ≠ 1 :=
  ⟨by decide +kernel, rfl, node_jobs_have_entries _ rfl, by decide, by decide⟩

/-- Queues of 7 and of 8 frames, a DOWN link, and a frame at the front. -/
theorem test_met_FramesQueueAndLeaveInOrder :
    let s (st : LinkState) (n : Nat) : State := linked ⟨st, some 19900, some 19950, List.replicate n (.alive 0), .fresh, 0⟩
    ((s .up 7).link 1).state = .up ∧ ((s .up 7).link 1).queue.length < 8 ∧ 8 ≤ ((s .up 8).link 1).queue.length ∧
      ((s .down 0).link 1).state = .down ∧ (s .up 8).Between ∧
      ((s .up 8).link 1).queue = .alive 0 :: List.replicate 7 (.alive 0) := by
  refine ⟨?_, ?_, ?_, ?_, rfl, ?_⟩ <;> decide +kernel

/-- A CLAIM whose second path entry has this egress. -/
def badClaim (egress : Byte) : ClaimBody := ⟨40, 12, 500, 2500, 1500, [⟨0x0077, 0, 2⟩, ⟨0x0011, 1, egress⟩, ⟨0x0012, 1, 0⟩], []⟩

/-- A READY that names nothing live, one on the other link of an entry, a COMMITTED on the other link of a return record, a
DISABLED link; frames with a code that names no value: a CLAIM whose key fits and one whose key does not, an ALARM on the wrong
link, with no match, at a head job live and closing, and at an entry live and closing. -/
theorem test_met_UnmatchedFramesAreStray :
    let s : State := { serving (hopEntry .transit) with pa.returns := [⟨headKey, 1, 2, 19000⟩] }
    let shut : State := serving { hopEntry .transit with closing := true }
    let ended : State := leading { headJob .unwinding .block with closing := true }
    let alarm (key : JobKey) : PathFrame := ⟨key, 0, .alarm 47 0⟩
    (Instr.ready 4 headKey 1).frame = some (4, ⟨headKey, 1, .ready⟩) ∧ (Instr.ready 4 headKey 1).wellFormed = true ∧
      s.matchFrame 4 ⟨headKey, 1, .ready⟩ = .noMatch ∧ s.matchFrame 1 ⟨hopKey, 1, .ready⟩ = .wrongLink ∧
      s.matchFrame 1 ⟨headKey, 0, .committed⟩ = .noMatch ∧
      (∀ r ∈ s.pa.returns, r.key = headKey → r.egress ≠ 1) ∧ s.mode ≠ .inReset ∧ (s.link 4).state ≠ .disabled ∧
      (FrameBody.ready) ≠ .committed ∧ ((linked Link.silent).link 1).state = .disabled ∧
      (codesOk .ready = true ∧ codesOk (.alarm 46 0) = true ∧ codesOk (.alarm 47 0) = false ∧
        codesOk (.claim (badClaim 4)) = true ∧ codesOk (.claim (badClaim 5)) = false ∧
        (Instr.claim 1 hopKey 0 (badClaim 5)).wellFormed = true) ∧
      (s.entry 0 = some (hopEntry .transit) ∧ (hopEntry .transit).key = hopKey ∧ s.keyFits hopKey = true ∧
        s.keyFits headKey = false) ∧
      (s.matchFrame 1 (alarm hopKey) = .wrongLink ∧ s.matchFrame 3 (alarm headKey) = .noMatch ∧
        s.matchFrame 3 (alarm hopKey) = .entry 0 ∧ shut.matchFrame 3 (alarm hopKey) = .entry 0 ∧
        ended.matchFrame 2 (alarm headKey) = .head 1 ∧ (shut.link 3).state = .up) := by decide +kernel

theorem leading_entry {x : Job} {z : Participation} {p : Nat} (h : (leading x).entry p = some z) :
    p = 0 ∧ z = headEntry := by
  have key : ∀ p, p < 32 → (leading x).entry p = if p = 0 then some headEntry else none := by
    intro p hp
    rcases p with _ | p
    · rfl
    · show (node.pa.entries.set 0 _).get (p + 1) = _
      rw [Table.get_set_ne _ _ _ _ (by omega)]
      exact Table.get_fill _ _ hp
  rw [key p (State.entry_lt h)] at h
  split at h
  · exact ⟨‹_›, (Option.some.inj h).symm⟩
  · cases h

theorem leading_job {x y : Job} {j : Nat} (h : (leading x).job j = some y) : j = 1 ∧ y = x := by
  have key : ∀ j, j < 8 → (leading x).job j = if j = 1 then some x else none := by
    intro j hj
    split
    · next e => subst e; rfl
    · next e =>
      show (node.jobs.set 1 _).get j = _
      rw [Table.get_set_ne _ _ _ _ (by omega)]
      exact Table.get_fill _ _ hj
  rw [key j (State.job_lt h)] at h
  split at h
  · exact ⟨‹_›, (Option.some.inj h).symm⟩
  · cases h

theorem leading_invariants (x : Job) (hk : x.key = headKey) (he : x.egress = 2) (hs : x.slot = 40)
    (hn : x.entry = some 0) : (leading x).JobsHaveEntries ∧ (leading x).GatesHeldByWatchers := by
  refine ⟨⟨fun j y h => ?_, fun j y p h e => ?_⟩, ⟨fun p z h => ?_, fun d dir h hd hd' e => ?_⟩⟩
  · obtain ⟨rfl, rfl⟩ := leading_job h; rw [hk]; rfl
  · obtain ⟨rfl, rfl⟩ := leading_job h
    rw [hn] at e; obtain rfl := Option.some.inj e
    exact ⟨headEntry, rfl, hk.symm, rfl, he.symm, hs.symm⟩
  · obtain ⟨-, rfl⟩ := leading_entry h; decide
  · have : (leading x).gate d dir = none :=
      Table.get_fill _ _ (by unfold gateIndex Config.gates; cases dir <;> simp [Dir.code] <;> omega)
    rw [this] at e; cases e

/-- A READY at a transit and at a head. -/
theorem test_met_MatchedFramesTouchTheirOwn :
    let x := hopEntry .transit
    let s := serving x
    let y := headJob .gating (.hdb 2000)
    (s.matchFrame 3 ⟨hopKey, 2, .ready⟩ = .entry 0 ∧ s.entry 0 = some x ∧ x.egress ≤ 4 ∧ x.slot < 96 ∧ 1 ≤ x.watched.1 ∧
        x.watched.1 ≤ 4 ∧ s.mode ≠ .inReset ∧ (s.link 3).state ≠ .disabled) ∧
      (leading y).matchFrame 2 ⟨headKey, 2, .ready⟩ = .head 1 ∧ (leading y).job 1 = some y ∧ y.egress ≤ 4 ∧ y.slot < 96 ∧
      (leading y).JobsHaveEntries ∧ (leading y).GatesHeldByWatchers :=
  ⟨by decide +kernel, by decide +kernel, rfl, by decide, by decide,
    (leading_invariants _ rfl rfl rfl rfl).1, (leading_invariants _ rfl rfl rfl rfl).2⟩

/-! ## Witnesses: the path protocol -/

/-- The record that the head of a claim sends. -/
def headRecord : HopRecord := ⟨0, 0x0077, 0x10, 0, 60, 120, 12, 2⟩

/-- A CLAIM that reaches node 0x0011 on link 1 as hop 1, of a path that leaves it for this egress and these later nodes. -/
def aClaim (egress : Byte) (rest : List PathEntry) : ClaimBody :=
  ⟨40, 12, 500, 2500, 1500, [⟨0x0077, 0, 2⟩, ⟨0x0011, 1, egress⟩] ++ rest, [headRecord]⟩

/-- One to a transit, and one to a tail. -/
def transitClaim : ClaimBody := aClaim 3 [⟨0x0012, 1, 0⟩]
def tailClaim : ClaimBody := aClaim 0 []

/-- Check 2 as the statement spells it out. -/
def claimForm (b : ClaimBody) : Bool :=
  let k := b.display.length
  decide (b.slot.toNat < 96 ∧ b.pilot.toNat ≤ 4095 ∧ b.target.toNat ≤ 2500 ∧ 1000 ≤ b.start.toNat ∧ b.start.toNat ≤ 2500 ∧
      b.visibility.toNat ≤ 2500 ∧ (b.path.map PathEntry.node).Nodup) &&
    (b.path.zipIdx.all fun (x, i) => decide (x.node ≠ 0 ∧ x.node ≠ 65535 ∧ x.ingress.toNat ≤ 4 ∧ x.egress.toNat ≤ 4 ∧
      (i ≠ 0 → x.ingress ≠ 0) ∧ x.ingress ≠ x.egress)) &&
    ((List.range k).all fun i => (b.display.countP fun r => r.hop.toNat == i) == 1) &&
    b.display.all fun r => decide ((b.path[r.hop.toNat]?).map PathEntry.node = some r.node ∧ r.dev.toNat ≤ 32767 ∧
      10 ≤ r.budget.toNat ∧ r.budget.toNat ≤ 300 ∧ r.budget.toNat + 10 ≤ r.limit.toNat ∧ r.limit.toNat ≤ 600 ∧
      r.count.toNat ≤ 95 ∧ r.tnext.toNat ≤ 4000)

/-- The conditions of CLAIM's checks, in order, as the statement reads them. -/
def claimChecks (s : State) (d : Nat) (key : JobKey) (b : ClaimBody) : List Bool :=
  let k := b.display.length
  let e := b.path.getD k default
  let egress := e.egress.toNat
  let slot := b.slot.toNat
  let isTail := decide (k + 1 = b.path.length)
  let ingress := (s.reading d .inward slot).cls
  [decide (k < b.path.length ∧ e.node = s.cfg.node.nodeId ∧ s.cfg.node.nodeId ≠ 0 ∧ e.ingress.toNat = d), claimForm b,
    decide (s.mode = .running), isTail == decide (egress = 0), decide (egress = 0) || s.isEquipped egress,
    decide (s.liveEntries + min s.shelf.bus.promised.length (8 - s.liveJobs) < 32), s.pa.entries.cells.all fun x => x.all fun x => x.key != key,
    decide ((s.grid egress slot).state = .free ∧ (egress, slot) ∉ s.shelf.bus.promised), decide (ingress ≠ .finite ∧ ingress ≠ .over),
    s.isSettled (if egress = 0 then d else egress), decide (egress = 0) || decide ((s.link egress).state = .up)]

/-- Which of its checks is the first that fails. -/
def firstClaimFailure (s : State) (b : ClaimBody) : Nat := ((claimChecks s 1 hopKey b).takeWhile id).length

/-- A witness for the refusal of every check in turn: another node, another link; slot 96; adopting; a tail with an egress;
an absent degree; 32 live entries; the key live; the cell owned; light at the ingress; drift; the egress link DOWN. -/
theorem test_met_ClaimIsRefusedAtTheFirstCheck :
    (Instr.claim 1 hopKey 0 transitClaim).wellFormed = true ∧ codesOk (.claim transitClaim) = true ∧
      node.mode ≠ .inReset ∧ (node.link 1).state ≠ .disabled ∧ (node.link 1).queue.length < 8 ∧
      [firstClaimFailure { node with cfg.node.nodeId := 0x0012 } transitClaim,
        firstClaimFailure node { transitClaim with path := [⟨0x0077, 0, 2⟩, ⟨0x0011, 2, 3⟩] },
        firstClaimFailure node { transitClaim with slot := 96 }, firstClaimFailure { node with mode := .adopting } transitClaim,
        firstClaimFailure node (aClaim 3 []), firstClaimFailure node (aClaim 0 [⟨0x0012, 1, 0⟩]),
        firstClaimFailure { node with cfg.node.equipped := 0b1011 } transitClaim,
        firstClaimFailure { node with pa.entries := Table.fill 32 (some default) } transitClaim,
        firstClaimFailure (serving (hopEntry .transit)) transitClaim,
        firstClaimFailure (node.setGrid 3 40 ⟨.inService, none, none, false, false⟩) transitClaim,
        firstClaimFailure (node.setSnap 1 .inward 40 ⟨.over, none, 0, some 19900, false, .pending⟩) transitClaim,
        firstClaimFailure (node.setGrid 3 41 ⟨.inService, none, none, true, false⟩) transitClaim,
        firstClaimFailure (node.setLink 3 Link.started) transitClaim, firstClaimFailure node transitClaim,
        firstClaimFailure node tailClaim] = [0, 0, 1, 2, 3, 3, 4, 5, 6, 7, 8, 9, 10, 11, 11] := by decide +kernel

/-- A CLAIM to a transit with this display. -/
def displays (ds : List HopRecord) : ClaimBody := { transitClaim with display := ds }

/-- Check 2 at the ends of its ranges: what passes, with every later check; what is one beyond, which fails it. -/
theorem test_met_ClaimIsRefusedAtTheFirstCheck_form :
    ([{ transitClaim with slot := 95 }, { transitClaim with pilot := 4095 }, { transitClaim with target := 2500 },
        { transitClaim with start := 1000 }, { transitClaim with visibility := 0 },
        displays [{ headRecord with dev := 32767, budget := 10, limit := 20, count := 95, tnext := 4000 }],
        displays [{ headRecord with budget := 300, limit := 600 }]].map (firstClaimFailure node)) = List.replicate 7 11 ∧
      ([{ transitClaim with slot := 96 }, { transitClaim with pilot := 4096 }, { transitClaim with target := 2501 },
        { transitClaim with start := 999 }, { transitClaim with start := 2501 }, { transitClaim with visibility := 2501 },
        aClaim 3 [⟨0x0011, 1, 0⟩], aClaim 3 [⟨0, 1, 0⟩], aClaim 3 [⟨65535, 1, 0⟩], aClaim 3 [⟨0x0012, 5, 0⟩],
        aClaim 3 [⟨0x0012, 1, 5⟩], aClaim 3 [⟨0x0012, 0, 1⟩], aClaim 3 [⟨0x0012, 1, 1⟩],
        displays [{ headRecord with hop := 1, node := 0x0011 }], displays [{ headRecord with node := 0x0078 }],
        { transitClaim with
          path := [⟨0x0077, 0, 2⟩, ⟨0x0012, 1, 2⟩, ⟨0x0011, 1, 3⟩, ⟨0x0013, 1, 0⟩], display := [headRecord, headRecord] },
        displays [{ headRecord with dev := 32768 }], displays [{ headRecord with budget := 9 }],
        displays [{ headRecord with budget := 301, limit := 600 }], displays [{ headRecord with limit := 69 }],
        displays [{ headRecord with limit := 601 }], displays [{ headRecord with count := 96 }],
        displays [{ headRecord with tnext := 4001 }]].map (firstClaimFailure node)) = List.replicate 23 1 := by
  decide +kernel

/-- While a beat to FREE cell (3, 40) waits: the cell is taken; so is the last participation, but not the one before it. -/
theorem test_met_ClaimIsRefusedAtTheFirstCheck_promised :
    [firstClaimFailure threeWaits transitClaim,
      firstClaimFailure { threeWaits with pa.entries := (Table.fill 32 (some default)).set 31 none } transitClaim,
      firstClaimFailure { threeWaits with pa.entries := ((Table.fill 32 (some default)).set 31 none).set 30 none } transitClaim,
      firstClaimFailure threeWaits { transitClaim with slot := 41 }] = [7, 5, 7, 11] := by decide +kernel

theorem test_met_AcceptedClaimTakesTheCell :
    (Instr.claim 1 hopKey 0 transitClaim).wellFormed = true ∧ codesOk (.claim transitClaim) = true ∧
      (Instr.claim 1 hopKey 0 tailClaim).wellFormed = true ∧ codesOk (.claim tailClaim) = true ∧
      node.claimPlace 1 transitClaim = some ⟨1, 3, false⟩ ∧ node.claimPlace 1 tailClaim = some ⟨1, 0, true⟩ ∧
      node.claimRefusal 1 hopKey transitClaim ⟨1, 3, false⟩ = none ∧
      node.claimRefusal 1 hopKey tailClaim ⟨1, 0, true⟩ = none ∧ node.mode ≠ .inReset ∧ (node.link 1).state ≠ .disabled ∧
      node.GatesHeldByWatchers :=
  ⟨rfl, by decide +kernel, rfl, by decide +kernel, by decide +kernel, by decide +kernel, by decide +kernel,
    by decide +kernel, by decide, by decide, node_gates_held _ rfl rfl⟩

/-- The display of the head job's path, complete. -/
def fullDisplay : List HopRecord := [⟨0, 0x0011, 0x10, 0, 60, 120, 5, 2⟩, ⟨1, 0x0012, 0x10, 0, 60, 120, 7, 2⟩]

/-- A gate (2, OUT) of another entry. -/
def otherGate : GateHold := ⟨7, hopKey, 19900, 1, .block⟩

/-- A CONFIRM at a transit OPEN and RESERVED; at a head in CLAIMING with a complete display and with none, its gate free and
held, and in another phase. -/
theorem test_met_ConfirmOpensRoutesAndBeginsRamps :
    let f (key : JobKey) (ds : List HopRecord) : PathFrame := ⟨key, 0, .confirm ds⟩
    let x := hopEntry .transit
    let y := headJob .claiming .block
    let s := leading y
    ((Instr.confirm 3 hopKey 0 fullDisplay).wellFormed = true ∧ codesOk (.confirm fullDisplay) = true ∧
        node.mode ≠ .inReset ∧ (node.link 3).state ≠ .disabled) ∧
      (∀ o ∈ [true, false], (serving { x with opened := o }).matchFrame 3 (f hopKey fullDisplay) = .entry 0 ∧
        (serving { x with opened := o }).entry 0 = some { x with opened := o }) ∧ x.closing = false ∧ x.egress ≤ 4 ∧
      x.slot < 96 ∧ s.matchFrame 2 (f headKey fullDisplay) = .head 1 ∧ s.job 1 = some y ∧ y.closing = false ∧
      displayHolds fullDisplay y.path 0 y.path.length claimFiguresOk = true ∧
      displayHolds [] y.path 0 y.path.length claimFiguresOk = false ∧ y.suspendPending = false ∧ y.stepNo < 255 ∧
      y.busyRun < 39 ∧ y.entry = some 0 ∧ s.entry 0 = some headEntry ∧ s.gate 2 .outward = none ∧
      (s.setGate 2 .outward (some otherGate)).gate 2 .outward = some otherGate ∧ otherGate.holder ≠ 0 ∧
      (leading { y with phase := .waiting }).matchFrame 2 (f headKey fullDisplay) = .head 1 := by decide +kernel

/-- Each frame at a job in each phase and at a closing one; a REFUSE at a transit OPEN and RESERVED. -/
theorem test_met_RefuseAlarmAndCommittedEndJobs :
    let refuse (key : JobKey) : PathFrame := ⟨key, 0, .refuse 46 15⟩
    let x := hopEntry .transit
    (∀ y ∈ [headJob .claiming .block, headJob .committing .block, headJob .waiting .block,
          { headJob .unwinding .block with closing := true }],
        (leading y).job 1 = some y ∧ (leading y).matchFrame 2 (refuse headKey) = .head 1 ∧
          (leading y).matchFrame 2 ⟨headKey, 0, .alarm 46 15⟩ = .head 1 ∧
          (leading y).matchFrame 2 ⟨headKey, 0, .committed⟩ = .head 1) ∧
      (46 : Byte).toNat ≤ 46 ∧ node.mode ≠ .inReset ∧ (node.link 2).state = .up ∧
      (headJob .claiming .block).closing = false ∧ headEntry.egress ≤ 4 ∧ headEntry.slot < 96 ∧
      (leading { headJob .unwinding .block with closing := true }).marks = Marks.none ∧
      (∀ o ∈ [true, false], (serving { x with opened := o }).matchFrame 3 (refuse hopKey) = .entry 0 ∧
        (serving { x with opened := o }).entry 0 = some { x with opened := o }) ∧ x.closing = false := by decide +kernel

/-- Each frame at a transit and at a tail, OPEN, RESERVED and closing; a COMMITTED that meets the second return record. -/
theorem test_met_CommitAbortAlarmAndKeepAtEntries :
    (∀ role ∈ [Role.transit, .tail], ∀ o ∈ [true, false], ∀ c ∈ [true, false],
        let x : Participation := { hopEntry role with opened := o, closing := c }
        let s := serving x
        s.entry 0 = some x ∧ x.egress ≤ 4 ∧ x.slot < 96 ∧ s.matchFrame 1 ⟨hopKey, 0, .commit⟩ = .entry 0 ∧
          s.matchFrame 1 ⟨hopKey, 0, .abort 46⟩ = .entry 0 ∧ s.matchFrame 1 ⟨hopKey, 0, .keep⟩ = .entry 0 ∧
          (role = .transit → s.matchFrame 3 ⟨hopKey, 0, .alarm 46 15⟩ = .entry 0)) ∧
      node.mode ≠ .inReset ∧ (node.link 1).state ≠ .disabled ∧
      (let s : State := { node with pa.returns := [⟨headKey, 1, 2, 19000⟩, ⟨hopKey, 1, 3, 19000⟩] }
       s.matchFrame 3 ⟨hopKey, 0, .committed⟩ = .noMatch ∧
         s.pa.returns = [⟨headKey, 1, 2, 19000⟩] ++ ⟨hopKey, 1, 3, 19000⟩ :: [] ∧
         ∀ q ∈ [(⟨headKey, 1, 2, 19000⟩ : CommitReturn)], q.key = hopKey → q.egress ≠ 3) := by decide +kernel

/-- A transit and a tail that serve cycle 2, OPEN and RESERVED, with the gate free and held by another. -/
theorem test_met_StepCycleAtTransitsAndTails :
    (∀ role ∈ [Role.transit, .tail], ∀ o ∈ [true, false],
        let x : Participation := { hopEntry role with
          opened := o, cycle := some ⟨2, .hdb 2000, 500⟩, intents := [2], ownRecord := some headRecord }
        let s := serving x
        s.entry 0 = some x ∧ x.closing = false ∧ x.egress ≤ 4 ∧ x.slot < 96 ∧ 1 ≤ x.watched.1 ∧ x.watched.1 ≤ 4 ∧
          s.matchFrame 1 ⟨hopKey, 2, .intent 2000 500⟩ = .entry 0 ∧ x.target = (500 : BitVec 16).toNat ∧
          x.target ≠ (501 : BitVec 16).toNat ∧ s.matchFrame 1 ⟨hopKey, 2, .measure 2000 500⟩ = .entry 0 ∧
          s.matchFrame 1 ⟨hopKey, 2, .stepEnd 2⟩ = .entry 0 ∧ s.gate x.watched.1 x.watched.2 = none ∧
          (s.setGate x.watched.1 x.watched.2 (some otherGate)).gate x.watched.1 x.watched.2 = some otherGate ∧
          (2 : Byte) ∈ x.intents ∧ (3 : Byte) ∉ x.intents ∧
          (role = .transit → s.matchFrame 3 ⟨hopKey, 2, .ready⟩ = .entry 0 ∧ s.matchFrame 3 ⟨hopKey, 2, .busy 15⟩ = .entry 0 ∧
            s.matchFrame 3 ⟨hopKey, 2, .report fullDisplay⟩ = .entry 0)) ∧
      node.mode ≠ .inReset ∧ (node.link 1).state ≠ .disabled ∧ fullDisplay.length ≤ 16 ∧
      displayCodesOk fullDisplay = true ∧ (List.replicate 16 headRecord).length ≤ 16 ∧
      displayCodesOk (List.replicate 16 headRecord) = true := by decide +kernel

/-- The report that a head in MEASURING awaits: its hop 1 alone. -/
def tailReport : List HopRecord := [⟨1, 0x0012, 0x10, 3, 60, 120, 7, 2⟩]

/-- A head in GATING at BLOCK and at a number with its plan; its 39th and 40th BUSY; a head in MEASURING with a complete
REPORT and with an empty one; a frame with another step number. -/
theorem test_met_StepCycleAtTheHead :
    let planned : Job := { headJob .gating (.hdb 2000) with plan := some ⟨.step, 150, 150, [2, 2]⟩ }
    let m := headJob .measuring (.hdb 2000)
    let complete (ds : List HopRecord) : Bool :=
      displayHolds ds m.path 1 m.path.length fun r =>
        r.dev.toNat ≤ 32767 && r.tnext.toNat ≤ 4000 && m.hops.any fun h =>
          h.hop == r.hop.toNat && h.budget == r.budget.toNat && h.limit == r.limit.toNat && h.count == r.count.toNat
    (∀ x ∈ [headJob .gating .block, planned, m],
        (leading x).job 1 = some x ∧ x.closing = false ∧ x.egress ≤ 4 ∧ x.slot < 96 ∧
          (leading x).matchFrame 2 ⟨headKey, 2, .ready⟩ = .head 1) ∧
      (planned.phase = .gating ∧ (2 : Byte).toNat = planned.stepNo + 1 ∧ (3 : Byte).toNat ≠ planned.stepNo + 1) ∧
      2500 = max (headJob .gating .block).profile.start (headJob .gating .block).target ∧
      (planned.att = .hdb 2000 ∧ planned.plan = some ⟨.step, 150, 150, [2, 2]⟩ ∧ 1850 = 2000 - 150) ∧
      ({ planned with busyRun := 38 } : Job).busyRun < 39 ∧ 39 ≤ ({ planned with busyRun := 39 } : Job).busyRun ∧
      m.phase = .measuring ∧ (1 : Byte).toNat = m.stepNo ∧ m.ownRecord = none ∧ complete tailReport = true ∧
      complete [] = false ∧ displayCodesOk tailReport = true ∧ node.mode ≠ .inReset ∧ (node.link 2).state ≠ .disabled := by
  decide +kernel

theorem gates_of_fill {s : State} (hg : s.gates = Table.fill Config.gates none)
    (hw : (List.range 32).all (fun p => (s.entry p).all fun x => decide (1 ≤ x.watched.1 ∧ x.watched.1 ≤ 4)) = true) :
    s.GatesHeldByWatchers := by
  refine ⟨fun p x h => ?_, fun d dir h hd hd' e => ?_⟩
  · have := all_below hw (State.entry_lt h)
    rw [h] at this
    exact of_decide_eq_true this
  · have : s.gate d dir = none := by
      unfold State.gate; rw [hg]
      exact Table.get_fill _ _ (by unfold gateIndex Config.gates; cases dir <;> simp [Dir.code] <;> omega)
    rw [this] at e; cases e

/-- A head in MEASURING at this attenuation whose own record is held. -/
def deciding (a : Atten) : Job :=
  { headJob .measuring a with ownRecord := some ⟨0, 0x0011, 0x10, 0, 60, 120, 5, 2⟩ }

/-- The report that it awaits, with the tail's results and deviation. -/
def tailSays (results : Byte) (dev : BitVec 16) : List HopRecord := [⟨1, 0x0012, results, dev, 60, 120, 7, 2⟩]

/-- What it decides on that report. -/
def decides (x : Job) (results : Byte) (dev : BitVec 16) : Decision :=
  (x.afterCycle (x.ownRecord.getD default :: tailSays results dev)).decision

/-- A report that is complete; each decision: at 60, 61 and 121 hdB, UNMEASURED, at the target and above it. Jobs with each run,
each count and each stack that a hold and a backoff meet; a job that is closing. -/
theorem test_met_DecisionsAreCarriedOut :
    (∀ x ∈ [deciding (.hdb 2000), deciding (.hdb 500), { deciding (.hdb 2000) with closing := true },
        { deciding (.hdb 2000) with unmeasuredRun := 2, noRoomRun := 2, backoffs := 3, stepNo := 255 },
        { deciding (.hdb 2000) with stack := [] }, { deciding (.hdb 2000) with stack := [.hdb 2150, .block], backoffs := 2 },
        { deciding (.hdb 2000) with suspendPending := true, busyRun := 38 },
        { deciding (.hdb 2000) with busyRun := 39 }],
        (leading x).job 1 = some x ∧ x.isPath = true ∧ x.phase = .measuring ∧ 1 ≤ x.egress ∧ x.egress ≤ 4 ∧ x.slot < 96 ∧
          x.stepNo ≤ 255 ∧ ((leading x).link x.egress).state ≠ .disabled ∧ x.ownRecord.isSome = true) ∧
      node.mode ≠ .inReset ∧ (tailSays 0x10 3).length ≤ 16 ∧ displayCodesOk (tailSays 0x43 121) = true ∧
      (let x := deciding (.hdb 2000)
       displayHolds (tailSays 0x10 3) x.path 1 x.path.length fun r =>
         r.dev.toNat ≤ 32767 && r.tnext.toNat ≤ 4000 && x.hops.any fun h =>
           h.hop == r.hop.toNat && h.budget == r.budget.toNat && h.limit == r.limit.toNat && h.count == r.count.toNat) = true ∧
      decides (deciding (.hdb 2000)) 0x10 3 = .continue ∧ decides (deciding (.hdb 500)) 0x10 3 = .commit ∧
      decides (deciding (.hdb 2000)) 0x10 60 = .holdNoRoom ∧ decides (deciding (.hdb 2000)) 0x10 61 = .backoff 1 ∧
      decides (deciding (.hdb 2000)) 0x10 121 = .emergency .excursion 1 ∧
      decides (deciding (.hdb 2000)) 0x13 3 = .holdUnmeasured ∧
      ((leading (deciding (.hdb 2000))).setGate 2 .outward (some otherGate)).gate 2 .outward = some otherGate ∧
      otherGate.holder ≠ 0 := by
  decide +kernel

/-- The node that leads this job, its participation measuring. -/
def leadingMeasured (x : Job) : State := (leading x).setEntry 0 (some { headEntry with measurement := some measurement })

/-- A running node whose jobs that neither commit nor close have participations. -/
theorem work_of_check {s : State} (hm : s.mode = .running)
    (h : (List.range 8).all (fun j => (s.job j).all fun y => y.phase == .committing || y.closing || y.entry.isSome) = true) :
    s.WorkHasItsPlace := by
  refine ⟨fun j y hy hp hc he => ?_, fun hn => absurd hm hn⟩
  have := all_below h (State.job_lt hy)
  rw [hy] at this
  simp [hc, he, hp] at this

/-- Its invariants; a measurement of the head that reaches its deadline, with the display held and without, and of a LOCAL job. -/
theorem test_met_DecisionsAreCarriedOut_invariants :
    ((leading (deciding (.hdb 2000))).OwnersMatch ∧ (leading (deciding (.hdb 2000))).GatesHeldByWatchers ∧
        (leading (deciding (.hdb 2000))).WorkHasItsPlace) ∧
      ∀ x ∈ [headJob .measuring (.hdb 2000), { headJob .measuring (.hdb 2000) with display := some (tailSays 0x10 3) },
          { headJob .measuring (.hdb 1400) with kind := .raise, path := [], startAtt := some 1500 }],
        (leadingMeasured x).Between ∧ (leadingMeasured x).OwnersMatch ∧ (leadingMeasured x).GatesHeldByWatchers ∧
          (leadingMeasured x).entry 0 = some { headEntry with measurement := some measurement } ∧
          measurement.deadline.length ≤ ((leadingMeasured x).now - measurement.deadline.start).toNat ∧
          headEntry.role.isTransitOrTail = false ∧ (leadingMeasured x).job headEntry.key.job.toNat = some x ∧
          x.phase = .measuring ∧ x.closing = false := by
  refine ⟨⟨ownersMatch_of_check (by decide +kernel), gates_of_fill rfl (by decide +kernel),
    work_of_check rfl (by decide +kernel)⟩, fun x hx => ?_⟩
  simp only [List.mem_cons, List.mem_nil_iff, or_false] at hx
  rcases hx with rfl | rfl | rfl <;>
    exact ⟨rfl, ownersMatch_of_check (by decide +kernel), gates_of_fill rfl (by decide +kernel), rfl, by decide +kernel, rfl, rfl,
      rfl, rfl⟩

/-! ## Witnesses: timers and memory's answers -/

/-- The timers at their lengths and 1 ms before; a gate held by a transit and by a head. -/
theorem test_met_PathTimersExpire :
    let x : Participation := { hopEntry .transit with orphanFrom := some 10000 }
    let y : Job := { headJob .waiting .block with keepFrom := some 18000 }
    let s : State := { serving x with pa.returns := [⟨headKey, 1, 2, 18950⟩] }
    let gated := (leading y).setGate 2 .outward (some ⟨0, headKey, 12000, 2, .block⟩)
    s.Between ∧ s.entry 0 = some x ∧ 10000 ≤ (s.now - 10000).toNat ∧ (s.now - 10001).toNat < 10000 ∧ x.egress ≤ 4 ∧
      x.slot < 96 ∧ (serving { x with closing := true }).entry 0 = some { x with closing := true } ∧
      (leading y).Between ∧ (leading y).job 1 = some y ∧ y.isPath = true ∧ 2000 ≤ (s.now - 18000).toNat ∧
      (s.now - 18001).toNat < 2000 ∧ s.pa.returns = ⟨headKey, 1, 2, 18950⟩ :: [] ∧ 1050 ≤ (s.now - 18950).toNat ∧
      (s.now - 18951).toNat < 1050 ∧ gated.Between ∧ gated.gate 2 .outward = some ⟨0, headKey, 12000, 2, .block⟩ ∧
      8000 ≤ (gated.now - 12000).toNat ∧ (gated.now - 12001).toNat < 8000 ∧ gated.entry 0 = some headEntry ∧
      headEntry.role.isTransitOrTail = false ∧ gated.job headEntry.key.job.toNat = some y ∧ y.closing = false ∧
      y.phase ≠ .committing ∧
      ((serving x).setGate 3 .outward (some ⟨0, hopKey, 12000, 2, .block⟩)).gate 3 .outward =
        some ⟨0, hopKey, 12000, 2, .block⟩ ∧ x.role.isTransitOrTail = true ∧ (node.gate 4 .inward) = none := by
  refine ⟨rfl, ?_, ?_, ?_, ?_, ?_, ?_, rfl, ?_, ?_, ?_, ?_, ?_, ?_, ?_, rfl, ?_, ?_, ?_, ?_, ?_, ?_, ?_, ?_, ?_, ?_, ?_⟩ <;>
    decide +kernel

/-- A job whose timer, of this kind, reaches its length at 20000. -/
def timed (x : Job) (k : JobTimerKind) : Job := { x with timer := some ⟨k, ⟨19800, 200⟩⟩ }

/-- A LOCAL job that raises a channel, as RAISE converts it. -/
def raiseJob (ph : Phase) : Job := { headJob ph (.hdb 1400) with kind := .raise, path := [], stack := [], startAtt := some 1500 }

/-- Each window and timer, reached and 1 ms before, with each stack that an unwind and a backoff meet. -/
theorem test_met_JobTimersExpire :
    (∀ x ∈ [timed (headJob .claiming .block) .confirmWindow, timed (headJob .gating (.hdb 2000)) .readyBusyWindow,
        timed { headJob .gating (.hdb 2000) with silentRun := 1 } .readyBusyWindow,
        timed { headJob .measuring (.hdb 2000) with silentRun := 1 } .reportWindow,
        timed { headJob .measuring (.hdb 2000) with stack := [.hdb 2150, .block], backoffs := 2 } .reportWindow,
        timed { headJob .measuring (.hdb 2000) with stack := [.hdb 2150, .block], backoffs := 3 } .reportWindow,
        timed { headJob .measuring (.hdb 2000) with stack := [.hdb 2150, .block], stepNo := 255 } .reportWindow,
        timed { headJob .measuring (.hdb 2000) with stack := [] } .reportWindow,
        timed { headJob .waiting (.hdb 2000) with stepNo := 255 } .retry, timed (headJob .waiting .block) .wait,
        timed { raiseJob .waiting with plan := some ⟨.step, 150, 150, [2]⟩ } .retry,
        timed (headJob .committing (.hdb 500)) .committedWindow, timed (headJob .settling (.hdb 2000)) .settle,
        timed (headJob .waiting (.hdb 2000)) .retry, timed { headJob .waiting (.hdb 2000) with suspendPending := true } .retry,
        timed (headJob .waiting (.hdb 2000)) .wait, timed { headJob .waiting (.hdb 2000) with suspendPending := true } .wait,
        timed (headJob .unwinding (.hdb 2500)) .unwind, timed { headJob .unwinding .block with stack := [] } .unwind,
        timed { headJob .unwinding (.hdb 2000) with stack := [.hdb 2150, .block] } .unwind,
        timed (raiseJob .unwinding) .unwind],
        (leading x).job 1 = some x ∧ x.timer.map (fun t => t.timer) = some ⟨19800, 200⟩ ∧
          (200 : Nat) ≤ ((leading x).now - 19800).toNat ∧ ((leading x).now - 19801).toNat < 200 ∧ x.closing = false ∧
          x.egress ≤ 4 ∧ x.slot < 96 ∧ x.entry = some 0 ∧ (leading x).entry 0 = some headEntry ∧
          (leading x).gate headEntry.watched.1 headEntry.watched.2 = none) ∧
      (leading (raiseJob .unwinding)).Between ∧ headEntry.egress ≤ 4 ∧ headEntry.slot < 96 ∧ 1 ≤ headEntry.watched.1 ∧
      headEntry.watched.1 ≤ 4 ∧ (headJob .waiting (.hdb 2000)).stepNo < 255 ∧
      (headJob .waiting (.hdb 2000)).isPath = true ∧ (raiseJob .waiting).isPath = false ∧
      ((leading (headJob .waiting .block)).setGate 2 .outward (some otherGate)).gate 2 .outward = some otherGate :=
  ⟨by decide +kernel, rfl, by decide, by decide, by decide, by decide, by decide, rfl, rfl, rfl⟩

/-- The gate of the head's participation and of a transit's, held by it since 19900. -/
theorem test_met_JobTimersExpire_gates :
    (∀ y ∈ [headJob .waiting (.hdb 2000), headJob .settling (.hdb 2000)],
        let s := (leading y).setGate 2 .outward (some ⟨0, headKey, 19900, 1, .hdb 2000⟩)
        headEntry.watched = (2, .outward) ∧ s.gate 2 .outward = some ⟨0, headKey, 19900, 1, .hdb 2000⟩ ∧
          s.entry 0 = some headEntry ∧ s.job 1 = some y) ∧
      (let s := (serving (hopEntry .transit)).setGate 3 .outward (some ⟨0, hopKey, 19900, 1, .hdb 2000⟩)
       (hopEntry .transit).watched = (3, .outward) ∧ s.gate 3 .outward = some ⟨0, hopKey, 19900, 1, .hdb 2000⟩ ∧
         s.entry 0 = some (hopEntry .transit)) := by
  decide +kernel

/-- The key of a job number that nothing here uses. -/
def hopKeyTwo : JobKey := ⟨0x0011, 2, 5⟩

/-- A part write of this purpose to cell (2, 40) awaits its answer. -/
def writing (s : State) (p : Purpose) : State := porting s (.part ⟨.c, cellOffset 2 40, 1, some 0, p, []⟩)

/-- The purposes of every write, and the jobs, entries and record in flight that they name, as each clause needs them. -/
theorem test_met_WriteAnswersActByPurpose :
    (∀ p ∈ [Purpose.closing 0, .step headKey, .route 0 hopKey, .commit headKey, .restore headKey, .record, .header, .status],
        (writing node p).shelf.bus.port = .part ⟨.c, cellOffset 2 40, 1, some 0, p, []⟩) ∧
      (writing node .header).Between ∧
      (∀ o ∈ [true, false], ∀ c ∈ [true, false],
        let x : Participation := { hopEntry .transit with orphaned := o, closing := c }
        (writing (serving x) (.closing 0)).entry 0 = some x ∧ x.egress ≤ 4 ∧ x.slot < 96 ∧ x.key = hopKey) ∧
      (∀ y ∈ [headJob .waiting (.hdb 2000), headJob .committing (.hdb 500),
          { raiseJob .committing with emergency := true }, { headJob .unwinding .block with closing := true }],
        (writing (leading y) (.commit headKey)).job headKey.job.toNat = some y ∧ y.key = headKey ∧
          headEntry.role.isTransitOrTail = false ∧ (writing (leading y) (.closing 0)).entry 0 = some headEntry) ∧
      (raiseJob .committing).isPath = false ∧
      (∀ f ∈ [(⟨default, 8, false⟩ : Flight), ⟨default, 2, true⟩, ⟨default, 1, false⟩, ⟨default, 1, true⟩],
        ({ writing node .record with shelf.rw := { node.shelf.rw with flight := some f } } : State).shelf.rw.flight =
          some f) := by
  refine ⟨?_, rfl, ?_, ?_, ?_, ?_⟩ <;> decide +kernel

/-- The purposes that a write replaced, each of another job or another entry than its own, whose own requester is gone. -/
theorem test_met_WriteAnswersActByPurpose_replaced :
    let r (p w : Purpose) : PartReq := ⟨.c, cellOffset 2 40, 1, some 0, p, [w]⟩
    (∀ p ∈ [Purpose.step hopKeyTwo, .closing 3], ∀ w ∈ [Purpose.commit headKey, .restore headKey, .closing 0, .step headKey,
        .route 0 hopKey],
        (porting node (.part (r p w))).shelf.bus.port = .part (r p w) ∧ (porting node (.part (r p w))).entry 3 = none) ∧
      node.Between ∧ headKey.job ≠ hopKeyTwo.job ∧
      (∀ y ∈ [headJob .committing (.hdb 500), headJob .waiting (.hdb 500), raiseJob .committing,
          { raiseJob .unwinding with entry := none, emergency := true }],
        (leading y).job headKey.job.toNat = some y ∧ y.key = headKey) ∧
      ({ raiseJob .unwinding with entry := none } : Job).entry = none ∧
      (∀ o ∈ [true, false],
        let x : Participation := { hopEntry .tail with orphaned := o, closing := true }
        (serving x).entry 0 = some x ∧ x.role.isTransitOrTail = true ∧ x.egress ≤ 4 ∧ x.slot < 96 ∧
          (serving x).job hopKeyTwo.job.toNat = none) := by
  refine ⟨?_, rfl, ?_, ?_, ?_, ?_⟩ <;> decide +kernel

/-! ## Witnesses: the arithmetic -/

/-- The rows of R134's table that rise, fall, stay and predict nothing, and a result that is not OK. -/
theorem test_met_CorrectionFactorsLearn :
    (element 41 100 2000 (some 200)).used = some 200 ∧ 1000 ≤ (element 41 100 2000 (some 200)).factor ∧
      devResultOf { (default : HopRecord) with results := 2 } ≠ .ok ∧
      devResultOf { (default : HopRecord) with results := 0x10 } = .ok ∧ (0 : Nat) < (95 * 200 + 999) / 1000 ∧
      (((95 * 200 + 999) / 1000 : Nat) : Int) < (61 : Int) - 41 ∧ ¬ (((95 * 200 + 999) / 1000 : Nat) : Int) < (60 : Int) - 41 ∧
      ¬ 0 < (50 * 0 + 999) / 1000 := by decide +kernel

/-- The third row of R134's table at hop 1 of a job of two hops, with a record of each, in a cycle that measured the planned
step of 95 and in one that measured none; hop 0 is at the end of its range, with a result that is not OK. -/
theorem test_met_CorrectionFactorsLearn_job :
    let own : HopElem := ⟨0, 0x0011, 60, 120, 12, 5, .ok, .lit, 2, 4000, some 0⟩
    let far : HopElem := ⟨1, 0x0012, 60, 120, 12, 41, .ok, .lit, 100, 2000, some 200⟩
    let x : Job := { headJob .measuring (.hdb 620) with hops := [own, far], lastDelta := some 95, cycleMeasuresStep := true }
    let rs : List HopRecord := [⟨1, 0x0012, 0x30, 58, 60, 120, 12, 80⟩, ⟨0, 0x0011, 0x43, 0, 60, 120, 12, 3⟩]
    let own' : HopElem := { own with dev := 0, devResult := .unmeasured, contResult := .unmeasured, tnext := 3 }
    let far' : HopElem := { far with dev := 58, contResult := .misroute, tnext := 80 }
    (∀ h ∈ x.hops, ∃ r ∈ rs, r.hop.toNat = h.hop ∧ ∀ q ∈ rs, q.hop.toNat = h.hop → q = r) ∧
      (x.afterCycle rs).hops = [own', { far' with factor := 1750 }] ∧
      ({ x with cycleMeasuresStep := false }.afterCycle rs).hops = [own', far'] := by decide +kernel

/-- A hop of the decision table. -/
def judged (hop dev : Nat) (r : DevResult) (c : ContResult) : HopElem := ⟨hop, 0x0011, 60, 120, 5, dev, r, c, 2, 1000, none⟩

/-- Two hops for each row of the decision table: the first is within every limit, at the budget itself; the second is the
lowest hop that carries the row, at 61, at 121, or by its result. The three plans of the last rows. A job after a cycle that
leaves hop 1 the smaller allowance, 15 against 65535 and against 30, and one that leaves both 30. -/
theorem test_met_PlansAndDecisionsFollowTheTables :
    (∀ x ∈ [(judged 1 5 .loss .lit, 0), (judged 1 5 .overload .lit, 1), (judged 1 121 .ok .lit, 2),
        (judged 1 5 .ok .misroute, 3), (judged 1 5 .ok .noLight, 4), (judged 1 61 .ok .lit, 5),
        (judged 1 5 .unmeasured .lit, 6), (judged 1 5 .ok .unmeasured, 6), (judged 1 60 .ok .lit, 7)],
        let hops := [judged 0 60 .ok .lit, x.1]
        let rows : List (HopElem → Bool) := [fun e => decide (e.devResult = .loss), fun e => decide (e.devResult = .overload),
          fun e => decide (e.limit < e.dev), fun e => decide (e.contResult = .misroute),
          fun e => decide (e.contResult = .noLight), fun e => decide (e.budget < e.dev),
          fun e => decide (e.devResult = .unmeasured ∨ e.contResult = .unmeasured)]
        (rows.takeWhile fun row => !hops.any row).length = x.2 ∧ ∀ row ∈ rows, row (judged 0 60 .ok .lit) = false) ∧
      ({ headJob .waiting (.hdb 500) with target := 500 } : Job).makePlan.outcome = .commitTest ∧
      ({ headJob .waiting (.hdb 2000) with hops := [judged 0 60 .ok .lit] } : Job).makePlan.outcome = .noRoom ∧
      (headJob .waiting (.hdb 2000)).makePlan.outcome = .step ∧ Profile.por.InRange ∧
      (∀ x ∈ [((0 : BitVec 16), (30 : BitVec 16), 1, 15), (1000, 30, 1, 15), (1000, 0, 0, 30)],
        let y := (headJob .measuring (.hdb 2000)).afterCycle
          [⟨0, 0x0011, 0, 30, 60, 120, 5, x.1⟩, ⟨1, 0x0012, 0, x.2.1 + 30, 60, 120, 7, 1000⟩]
        y.hops ≠ [] ∧ y.limiting = x.2.2.1) := by
  refine ⟨by decide +kernel, by decide +kernel, by decide +kernel, by decide +kernel,
    ⟨by decide, by decide, by decide, by decide, by decide, by decide⟩, by decide +kernel⟩

/-! ## Single points of the manual -/

/-- R20: at a count of 4 and with no head the older (d) goes before the (c); below it the (c) does. -/
theorem test_count_of_four_takes_the_oldest :
    (after (exec .partAccessGrant (bussed node [] .idle [reqD, reqC] 4))).shelf.bus.port = .part reqD ∧
      (after (exec .partAccessGrant (bussed node [] .idle [reqD, reqC] 3))).shelf.bus.port = .part reqC := by decide +kernel

/-- R2: a part write goes out with master ID 15, one beat, every byte enable on. -/
theorem test_part_write_downstream :
    (porting node (.part reqC)).shelf.bus.downstream = some ⟨0x400003A4, 15, .write [⟨0x5320, 15⟩]⟩ := by decide +kernel

/-- R23: a write that RESETN cuts off at its check read goes out with every byte enable off, and completes without an answer. -/
theorem test_write_cut_off_at_its_check_read :
    let u := after (exec .resetnAsserted (porting node (.checkRead oneWrite)))
    u.shelf.bus.downstream = some ⟨0x40001000, 1, .write [⟨0x10000, 0⟩]⟩ ∧ u.shelf.bus.answers = [⟨oneWrite.txn, none⟩] ∧
      (after (exec (.forwardedTransactionComplete true []) u)).shelf.bus = { u.shelf.bus with port := .idle } := by
  decide +kernel

/-- R6, R8, R9: with one job number free, the RAISE of beat 0 takes it and the LIGHT of beat 1 is turned away, though beat 0 waits
for the check read. -/
theorem test_beats_take_job_numbers_in_order :
    let s : State := { node.setGrid 3 38 ⟨.inService, none, none, false, false⟩ with
      jobs := (Table.fill 8 (some default)).set 7 none }
    let t : UpTxn := ⟨0x40000518, 2, .write [⟨mkCell 1 0 (.hdb 500), 15⟩, ⟨mkCell 2 0 (.hdb 900), 15⟩]⟩
    let u := after (exec (.checkReadAnswer (some [mkCell 1 0 (.hdb 820)])) (after (exec .forwardedWriteGrant (asked s t))))
    (u.grid 3 38).owner = some 0 ∧ (u.grid 3 39).state = .free ∧ (u.job 7).map Job.kind = some .raise ∧
      (forwarded u.shelf.bus.port).beats.map (fun b => b.report.map fun e => (e.kind, e.cause)) =
        [none, some (.intercept, 24)] := by decide +kernel

/-- R16, R148: the ERROR of the write that replaced a commit write ends the commit's job COMMIT_FAULT. -/
theorem test_replaced_commit_fails :
    let s := porting (leading (headJob .committing (.hdb 500))) (.part ⟨.c, cellOffset 2 40, 1, some 0, .step hopKeyTwo, [.commit headKey]⟩)
    let u := after (exec (.stepWriteAnswer false) s)
    u.job 1 = none ∧ (u.shelf.rw.flight.toList.map Flight.event ++ u.shelf.rw.queue).map (fun e => (e.kind, e.value1.toNat / 2 ^ 24 % 8)) =
      [(.setpointFault, 0), (.jobEnd, 3)] := by decide +kernel

/-- R185: the read of the first order stands behind the node status record's writes. -/
theorem test_end_of_adoption_in_order :
    let s : State := { node with mode := .adopting, ord := ⟨0, 0, some 3, .waiting⟩ }
    let ps := s.checkAdopted.shelf.bus.parts
    (ps.filter fun r => r.purpose == .status || r.purpose == .orderLower).getLast?.map PartReq.offset = some 0x2000 ∧
      ps.getLast?.map PartReq.offset = some 0x2000 ∧ ps.any (fun r => r.purpose == .status) = true := by decide +kernel

/-- R188: a REPORT of 16 records that lacks the transit's own goes on with 16. -/
theorem test_report_carries_at_most_16_records :
    let x : Participation := { hopEntry .transit with cycle := some ⟨2, .hdb 2000, 500⟩, ownRecord := some { headRecord with hop := 1 } }
    let u := after (exec (.report 3 hopKey 2 ((List.range 16).map fun i => { headRecord with hop := BitVec.ofNat 8 (i + 2) })) (serving x))
    (u.link 1).queue.map (fun f => (encodeFrame f).length) = [216] := by decide +kernel

/-- R100, R188: a cause code that names no value raises no report at a closing entry, and is out of turn at a closing job. -/
theorem test_bad_code_where_it_closes :
    (let u := after (exec (.alarm 3 hopKey 0 47 0) (serving { hopEntry .transit with closing := true }))
     u.shelf = node.shelf) ∧
      (let u := after (exec (.alarm 2 headKey 0 47 0) (leading { headJob .unwinding .block with closing := true }))
       u.shelf.rw.flight.map (fun f => (f.event.kind, f.event.value2)) = some (.strayFrame, 2)) := by decide +kernel
end Sys2Proof.Tests
end

