-- ==== Sys2Proof/Proofs/OnlyProduces.lean ====
section
/-! SUPPORT. What the judgement of a burst does on the shelf side: it only produces (R2, R173). The blocks it calls on the
way, the start of a LOCAL job among them, are taken in the order of their definitions. -/

namespace Sys2Proof.Machine

/-! ## Reading and changing a job -/

/-- What leaves the shelf side as it was only produces. -/
theorem Shelf.OnlyProduces.of_eq {a b : Shelf} (h : b = a) : Shelf.OnlyProduces a b := h ▸ .refl b

theorem State.withJob_onlyProduces {s : State} {j : Nat} {f : Job → State}
    (h : ∀ x, Shelf.OnlyProduces s.shelf (f x).shelf) : Shelf.OnlyProduces s.shelf (s.withJob j f).shelf := by
  unfold State.withJob
  split
  · exact h _
  · exact .refl _

theorem State.withJob_shelf {s : State} {j : Nat} {f : Job → State} (h : ∀ x, (f x).shelf = s.shelf) :
    (s.withJob j f).shelf = s.shelf := by
  unfold State.withJob
  split
  · exact h _
  · rfl

@[simp] theorem State.updJob_shelf (s : State) (j : Nat) (f : Job → Job) : (s.updJob j f).shelf = s.shelf :=
  State.withJob_shelf fun _ => rfl

@[simp] theorem State.enterPhase_shelf (s : State) (j : Nat) (p : Phase) (t : Option JobTimer) :
    (s.enterPhase j p t).shelf = s.shelf :=
  State.withJob_shelf fun _ => by dsimp only; split <;> rfl

/-! ## Gates and participations -/

@[simp] theorem State.releaseGate_shelf (s : State) (p : Nat) (x : Participation) :
    (s.releaseGate p x).shelf = s.shelf := by rw [State.releaseGate_frame]

@[simp] theorem State.restartGate_shelf (s : State) (p : Nat) (x : Participation) :
    (s.restartGate p x).shelf = s.shelf := by rw [State.restartGate_frame]

@[simp] theorem State.releaseJobGate_shelf (s : State) (x : Job) : (s.releaseJobGate x).shelf = s.shelf := by
  unfold State.releaseJobGate
  split
  · rfl
  · split
    · rfl
    · exact s.releaseGate_shelf _ _

@[simp] theorem State.restartJobGate_shelf (s : State) (x : Job) : (s.restartJobGate x).shelf = s.shelf := by
  unfold State.restartJobGate
  split
  · rfl
  · split
    · rfl
    · exact s.restartGate_shelf _ _

@[simp] theorem State.withdrawJob_shelf (s : State) (x : Job) : (s.withdrawJob x).shelf = s.shelf := by
  unfold State.withdrawJob
  split
  · rfl
  · unfold State.withdraw
    split <;> rfl

@[simp] theorem State.startRamping_shelf (s : State) (e k : Nat) : (s.startRamping e k).shelf = s.shelf := by
  rcases s.startRamping_spec e k with h | ⟨-, h⟩
  · rw [h]
  · rw [h]; rfl

@[simp] theorem State.freeParticipation_shelf (s : State) (p : Nat) : (s.freeParticipation p).shelf = s.shelf := by
  rcases s.freeParticipation_frame p with h | ⟨-, h⟩ <;> rw [h]

@[simp] theorem State.commitEntry_shelf (s : State) (x : Job) : (s.commitEntry x).shelf = s.shelf := by
  unfold State.commitEntry
  split
  · rfl
  · exact State.freeParticipation_shelf _ _

/-! ## A head's frames and its cell (R96, R104, R116, R142) -/

theorem State.jobSend_onlyProduces (s : State) (j step : Nat) (b : FrameBody) :
    Shelf.OnlyProduces s.shelf (s.jobSend j step b).shelf :=
  State.withJob_onlyProduces fun x => by
    split
    · rw [State.restartJobGate_shelf]
      exact (State.send_frame (State.setJob _ _ _) _ _).2
    · exact .refl _

theorem State.endCycle_onlyProduces (s : State) (j : Nat) (decision : Byte) :
    Shelf.OnlyProduces s.shelf (s.endCycle j decision).shelf :=
  State.withJob_onlyProduces fun x => by
    rw [State.releaseJobGate_shelf]
    exact s.jobSend_onlyProduces _ _ _

theorem State.writeJobCell_onlyProduces (s : State) (x : Job) (a : Atten) (pilot : Nat) (p : Purpose) :
    Shelf.OnlyProduces s.shelf (s.writeJobCell x a pilot p).shelf := s.writeCell_onlyProduces _ _ _ _ _

theorem State.closeJobCell_onlyProduces (s : State) (x : Job) :
    Shelf.OnlyProduces s.shelf (s.closeJobCell x).shelf := by
  unfold State.closeJobCell
  split
  · exact .refl _
  · split
    · exact .refl _
    · exact (s.closeParticipation_frame _ _ _).2

/-! ## Aborts (R151, R152) -/

theorem State.endUnwind_onlyProduces (s : State) (j : Nat) : Shelf.OnlyProduces s.shelf (s.endUnwind j).shelf :=
  State.withJob_onlyProduces fun x => by
    split
    · rw [State.updJob_shelf, State.commitEntry_shelf]
      exact s.writeJobCell_onlyProduces _ _ _ _
    · refine (s.closeJobCell_onlyProduces x).trans ?_
      exact .trans (.of_eq (State.updJob_shelf _ _ _)) (State.jobSend_onlyProduces _ _ _ _)

theorem State.gracefulAbort_onlyProduces (s : State) (j : Nat) (cause : Cause) (hop : Nat) :
    Shelf.OnlyProduces s.shelf (s.gracefulAbort j cause hop).shelf :=
  State.withJob_onlyProduces fun x => by
    have cycleEnds (t : State) :
        Shelf.OnlyProduces t.shelf (if x.phase.holdsCycle then t.endCycle j decisionRelease else t).shelf := by
      split
      · exact t.endCycle_onlyProduces _ _
      · exact .refl _
    have unwinds (t : State) :
        Shelf.OnlyProduces t.shelf
          (if x.att = .block then t.endUnwind j
            else t.enterPhase j .unwinding (t.jobTimer .unwind x.profile.settle)).shelf := by
      split
      · exact t.endUnwind_onlyProduces _
      · exact .of_eq (t.enterPhase_shelf _ _ _)
    split
    · exact .refl _
    · refine .trans (.trans ?_ (cycleEnds _)) (unwinds _)
      exact .of_eq ((State.updJob_shelf _ _ _).trans (s.withdrawJob_shelf x))

/-! ## Waiting and steps (R106, R121, R141, R155) -/

@[simp] theorem State.suspendNow_shelf (s : State) (j : Nat) : (s.suspendNow j).shelf = s.shelf := s.updJob_shelf _ _

@[simp] theorem State.waitSettle_shelf (s : State) (j : Nat) : (s.waitSettle j).shelf = s.shelf :=
  State.withJob_shelf fun _ => s.enterPhase_shelf _ _ _

@[simp] theorem State.waitRetry_shelf (s : State) (j : Nat) : (s.waitRetry j).shelf = s.shelf := s.enterPhase_shelf _ _ _

theorem State.busyAnswer_onlyProduces (s : State) (j hop : Nat) (fromPath : Bool) :
    Shelf.OnlyProduces s.shelf (s.busyAnswer j hop fromPath).shelf :=
  State.withJob_onlyProduces fun x => by
    have answered (t : State) :
        Shelf.OnlyProduces t.shelf
          (if busyLimit ≤ x.busyRun + 1 then t.gracefulAbort j .congested hop else t.waitRetry j).shelf := by
      split
      · exact t.gracefulAbort_onlyProduces _ _ _
      · exact .of_eq (t.waitRetry_shelf j)
    exact .trans (.of_eq (s.releaseJobGate_shelf x)) (answered (State.setJob _ j _))

theorem State.applyStep_onlyProduces (s : State) (j : Nat) : Shelf.OnlyProduces s.shelf (s.applyStep j).shelf :=
  State.withJob_onlyProduces fun x => by
    rw [State.updJob_shelf]
    refine .trans (s.writeJobCell_onlyProduces x.stepApplied x.stepApplied.att x.stepApplied.pilot
      (.step x.stepApplied.key)) (.of_eq ?_)
    split
    · split <;> simp
    · simp

theorem State.sendIntent_onlyProduces (s : State) (j : Nat) : Shelf.OnlyProduces s.shelf (s.sendIntent j).shelf :=
  State.withJob_onlyProduces fun _ =>
    .trans (.of_eq (State.enterPhase_shelf _ _ _ _)) (State.jobSend_onlyProduces _ _ _ _)

theorem State.localStep_onlyProduces (s : State) (j : Nat) : Shelf.OnlyProduces s.shelf (s.localStep j).shelf :=
  .trans (.of_eq (s.updJob_shelf _ _)) (State.applyStep_onlyProduces _ _)

theorem State.beginStep_onlyProduces (s : State) (j : Nat) : Shelf.OnlyProduces s.shelf (s.beginStep j).shelf :=
  State.withJob_onlyProduces fun x => by
    split
    · exact .of_eq (s.suspendNow_shelf j)
    split
    · exact s.gracefulAbort_onlyProduces _ _ _
    split
    · exact .refl _
    split
    · exact .refl _
    split
    · exact s.busyAnswer_onlyProduces _ _ _
    split
    · exact State.sendIntent_onlyProduces (State.takeGate _ _ _ _ _) j
    · exact State.localStep_onlyProduces (State.takeGate _ _ _ _ _) j

/-! ## The start of a LOCAL job (R157) -/

theorem State.createLocal_onlyProduces (s : State) (r : LocalRequest) :
    Shelf.OnlyProduces s.shelf (s.createLocal r).shelf := Shelf.submit_onlyProduces s.shelf _

theorem State.floorAbort_onlyProduces (s : State) (j start : Nat) :
    Shelf.OnlyProduces s.shelf (s.floorAbort j start).shelf :=
  .trans (.of_eq (s.updJob_shelf _ _)) (State.gracefulAbort_onlyProduces _ _ _ _)

theorem State.firstRaise_onlyProduces (s : State) (j : Nat) : Shelf.OnlyProduces s.shelf (s.firstRaise j).shelf := by
  refine .trans (.of_eq (s.updJob_shelf j Job.planned)) (State.withJob_onlyProduces fun x => ?_)
  split
  · exact .of_eq ((State.waitSettle_shelf _ _).trans (State.updJob_shelf _ _ _))
  · exact State.beginStep_onlyProduces _ _

theorem State.startLocal_onlyProduces (s : State) (r : LocalRequest) :
    Shelf.OnlyProduces s.shelf (s.startLocal r).shelf := by
  refine (s.createLocal_onlyProduces r).trans (State.withJob_onlyProduces fun x => ?_)
  split
  · exact State.beginStep_onlyProduces _ _
  · split
    · exact State.floorAbort_onlyProduces _ _ _
    · exact State.firstRaise_onlyProduces _ _

/-! ## The judgement of a burst (R4 to R14) -/

theorem State.judgeFree_onlyProduces (s : State) (e k : Nat) (m : BitVec 4) (b : WriteBeat) :
    Shelf.OnlyProduces s.shelf (s.judgeFree e k m b).state.shelf := by
  unfold State.judgeFree
  dsimp only
  split
  · exact .refl _
  split
  · exact .refl _
  split
  · exact .refl _
  · exact s.startLocal_onlyProduces _

theorem State.judgeService_onlyProduces (s : State) (e k : Nat) (m : BitVec 4) (b : WriteBeat) (w : Word) :
    Shelf.OnlyProduces s.shelf (s.judgeService e k m b w).state.shelf := by
  unfold State.judgeService
  dsimp only
  split
  · exact .refl _
  split
  · exact .refl _
  split
  · exact .refl _
  split
  · exact .refl _
  split
  · exact .refl _
  · exact s.startLocal_onlyProduces _

/-- A beat to an L cell starts no job: of the state its judgement changes the grid alone (R10). -/
theorem State.judgeFreeLocal_shelf (s : State) (k : Nat) (b : WriteBeat) : (s.judgeFreeLocal k b).state.shelf = s.shelf := by
  unfold State.judgeFreeLocal
  split <;> rfl

theorem State.judgeServiceLocal_shelf (s : State) (k : Nat) (m : BitVec 4) (b : WriteBeat) :
    (s.judgeServiceLocal k m b).state.shelf = s.shelf := by
  unfold State.judgeServiceLocal
  split <;> rfl

theorem State.judgeCell_onlyProduces (s : State) (e k : Nat) (m : BitVec 4) (b : WriteBeat) (current : Option Word) :
    Shelf.OnlyProduces s.shelf (s.judgeCell e k m b current).state.shelf := by
  unfold State.judgeCell
  split
  · exact .refl _
  split
  · exact .refl _
  split
  · exact .refl _
  · exact .refl _
  · exact .refl _
  · split
    · exact .of_eq (s.judgeFreeLocal_shelf k b)
    · exact s.judgeFree_onlyProduces _ _ _ _
  · split
    · exact .of_eq (s.judgeServiceLocal_shelf k m b)
    · split
      · exact .refl _
      · exact s.judgeService_onlyProduces _ _ _ _ _

/-- A snooped beat leaves the state as it was: its copy is taken at the completion (R13, R14). -/
theorem State.snoopBeat_state (s : State) (b : WriteBeat) (x : Snoop) : (s.snoopBeat b x).state = s := by
  unfold State.snoopBeat
  split <;> rfl

theorem State.monitorBeat_state (s : State) (m : BitVec 4) (b : WriteBeat) (x : Snoop) :
    (s.monitorBeat m b x).state = s := by
  unfold State.monitorBeat
  split
  · exact s.snoopBeat_state b x
  · rfl

theorem State.judgeBeat_onlyProduces (s : State) (m : BitVec 4) (a : Word) (b : WriteBeat) (current : Option Word) :
    Shelf.OnlyProduces s.shelf (s.judgeBeat m a b current).state.shelf := by
  unfold State.judgeBeat
  split
  case h_1 =>
    split
    · exact s.judgeCell_onlyProduces _ _ _ _ _
    · exact .refl _
  case h_2 => exact .of_eq (congrArg State.shelf (s.monitorBeat_state _ _ _))
  case h_3 => exact .of_eq (congrArg State.shelf (s.monitorBeat_state _ _ _))
  case h_4 => exact .of_eq (congrArg State.shelf (s.snoopBeat_state _ _))
  case h_5 => exact .of_eq (congrArg State.shelf (s.snoopBeat_state _ _))
  case h_6 => exact .refl _
  case h_7 => exact .refl _

theorem State.grantBeat_onlyProduces (s : State) (m : BitVec 4) (after : Bool) (a : Word) (b : WriteBeat) :
    Shelf.OnlyProduces s.shelf (s.grantBeat m after a b).1.shelf := by
  unfold State.grantBeat
  split
  · exact .refl _
  · exact s.judgeBeat_onlyProduces _ _ _ _

theorem State.grantBeats_onlyProduces (m : BitVec 4) (l : List (Word × WriteBeat)) :
    ∀ (s : State) (after : Bool), Shelf.OnlyProduces s.shelf (s.grantBeats m after l).1.shelf := by
  induction l with
  | nil => exact fun s _ => .refl s.shelf
  | cons x rest ih => exact fun s after => (s.grantBeat_onlyProduces m after x.1 x.2).trans (ih _ _)

end Sys2Proof.Machine
end

