-- ==== Sys2Proof/Proofs/ArbiterCount.lean ====
section
/-! SUPPORT. The arbiter's count of consecutive class (b) grants (R20): what the arbiter chooses at a count of 4, what each grant
leaves of the bus, and the statement. -/

namespace Sys2Proof.Machine

/-! ## The arbiter's choice and its count -/

/-- A part request waits exactly where there is an oldest one of classes (c) and (d). -/
theorem BusInterposer.oldestCD_isSome (b : BusInterposer) : b.oldestCD.isSome = true ↔ b.PartWaits := by
  simp [BusInterposer.oldestCD, BusInterposer.PartWaits]

theorem BusInterposer.countAfterB_of_partWaits {b : BusInterposer} (h : b.PartWaits) : b.countAfterB = b.bGrants + 1 :=
  if_pos (b.oldestCD_isSome.2 h)

theorem BusInterposer.countAfterB_of_not_partWaits {b : BusInterposer} (h : ¬ b.PartWaits) : b.countAfterB = 0 :=
  if_neg (mt b.oldestCD_isSome.1 h)

/-- Class (b) is granted only where no part request waits or the count stands below 4 (R20). -/
theorem BusInterposer.choice_forwarded_turn {b : BusInterposer} {t : UpTxn} (h : b.choice = some (.forwarded t)) :
    b.bGrants < bGrantLimit ∨ ¬ b.PartWaits := by
  have none_waits (hc : b.oldestCD = none) : ¬ b.PartWaits := by simp [← b.oldestCD_isSome, hc]
  unfold BusInterposer.choice at h
  split at h
  · cases h
  · split at h
    case h_1 => cases h
    case h_2 =>
      split at h
      · cases h
      · exact .inl (Nat.lt_of_not_le ‹_›)
    case h_3 => exact .inr (none_waits ‹_›)
    case h_4 => cases h
    case h_5 => cases h

/-- At a count of 4, with no class (a) request pending, the oldest part request has its turn (R20). -/
theorem BusInterposer.choice_at_limit {b : BusInterposer} (hp : b.port = .idle) (hn : bGrantLimit ≤ b.bGrants)
    (hw : b.PartWaits) (ha : ∀ r ∈ b.parts, r.cls ≠ .a) :
    ∃ r, b.choice = some (.part r) ∧ b.parts.head? = some r := by
  obtain ⟨q, hq, -⟩ := hw
  obtain ⟨r, rest, hr⟩ := List.exists_cons_of_ne_nil (List.ne_nil_of_mem hq)
  have hcls : r.cls ≠ .a := ha r (hr ▸ List.mem_cons_self)
  have hcd : b.oldestCD = some r := by simp [BusInterposer.oldestCD, hr, hcls]
  have hno : b.oldest .a = none := by simpa [BusInterposer.oldest] using ha
  refine ⟨r, ?_, by rw [hr]; rfl⟩
  cases hh : b.eligibleHead with
  | some t => simp [BusInterposer.choice, hp, hno, hcd, hh, hn]
  | none => simp [BusInterposer.choice, BusInterposer.turnCD, hp, hno, hcd, hh, hn]

/-! ## What each grant leaves of the bus -/

/-- An event's end leaves the port and the count as its effect left them. -/
theorem State.finish_port (s before : State) : (s.finish before).shelf.bus.port = s.shelf.bus.port :=
  (s.finish_spec before).2.1.port

theorem State.finish_bGrants (s before : State) : (s.finish before).shelf.bus.bGrants = s.shelf.bus.bGrants :=
  (s.finish_spec before).2.1.bGrants

/-- The judgement of a granted burst leaves the count of its grant (R6, R20). -/
theorem State.grantWrite_bGrants (s : State) (t : UpTxn) (bs : List WriteBeat) :
    (s.grantWrite t bs).shelf.bus.bGrants = s.shelf.bus.countAfterB := by
  have judged (after : Bool) (l : List (Word × WriteBeat)) :
      ((s.updBus fun b => b.grantForwarded .idle).grantBeats t.master after l).1.shelf.bus.bGrants =
        s.shelf.bus.countAfterB := (State.grantBeats_onlyProduces _ _ _ _).bGrants
  unfold State.grantWrite
  dsimp only
  split
  · exact judged _ _
  · exact (State.reportAll_onlyProduces _ _).bGrants.trans (judged _ _)

theorem exec_forwardedReadGrant (s : State) : exec .forwardedReadGrant s = execForwardedReadGrant s := rfl

theorem exec_forwardedWriteGrant (s : State) : exec .forwardedWriteGrant s = execForwardedWriteGrant s := rfl

/-- A class (b) grant is given to the arbiter's choice, and leaves the count of R20 after it. -/
theorem forwardedGrant_spec {s u : State}
    (h : exec .forwardedReadGrant s = .next u ∨ exec .forwardedWriteGrant s = .next u) :
    (∃ t, s.shelf.bus.choice = some (.forwarded t)) ∧ u.shelf.bus.bGrants = s.shelf.bus.countAfterB := by
  rcases h with h | h
  · rw [exec_forwardedReadGrant, execForwardedReadGrant] at h
    split at h
    · next t ht =>
      split at h
      · rw [occur_spec _ _ _ h]
        exact ⟨⟨t, ht⟩, State.finish_bGrants _ _⟩
      · cases h
    · cases h
    · cases h
  · rw [exec_forwardedWriteGrant, execForwardedWriteGrant] at h
    split at h
    · next t ht =>
      split at h
      · rw [occur_spec _ _ _ h]
        exact ⟨⟨t, ht⟩, (State.finish_bGrants _ _).trans (s.grantWrite_bGrants _ _)⟩
      · cases h
    · cases h
    · cases h

/-- Where the arbiter's choice is a part request, both class (b) grants are refused (R19). -/
theorem forwardedGrants_refused_of_part {s : State} {r : PartReq} (h : s.shelf.bus.choice = some (.part r)) :
    exec .forwardedReadGrant s = .refused .noGrantDue ∧ exec .forwardedWriteGrant s = .refused .noGrantDue := by
  constructor
  · simp [exec_forwardedReadGrant, execForwardedReadGrant, h]
  · simp [exec_forwardedWriteGrant, execForwardedWriteGrant, h]

theorem exec_partAccessGrant (s : State) : exec .partAccessGrant s = execPartAccessGrant s := rfl

/-- A part grant takes place exactly where the arbiter's choice is a part request (R19). -/
theorem exec_partAccessGrant_iff (s u : State) :
    exec .partAccessGrant s = .next u ↔
      ∃ r, s.shelf.bus.choice = some (.part r) ∧ u = (s.updBus fun b => b.grantPart r).finish s := by
  rw [exec_partAccessGrant, execPartAccessGrant]
  split
  · next r hr => simp [hr, occur, eq_comm]
  · next t ht => simp [ht]
  · next hn => simp [hn]

/-- The part request granted takes the port, and leaves the count of R20 after it. -/
theorem partAccessGrant_spec {s u : State} (h : exec .partAccessGrant s = .next u) :
    ∃ r, s.shelf.bus.choice = some (.part r) ∧ u.shelf.bus.port = .part r ∧
      u.shelf.bus.bGrants = s.shelf.bus.countAfterPart r := by
  obtain ⟨r, hr, rfl⟩ := (exec_partAccessGrant_iff s u).1 h
  exact ⟨r, hr, State.finish_port _ _, State.finish_bGrants _ _⟩

/-! ## The bound of the count, and the resets -/

/-- The count rises to 4 at most, since class (b) is not granted over a waiting part request at 4 (R20). -/
theorem forwardedGrant_count_le {s u : State}
    (h : exec .forwardedReadGrant s = .next u ∨ exec .forwardedWriteGrant s = .next u) : u.shelf.bus.bGrants ≤ 4 := by
  obtain ⟨⟨t, ht⟩, hu⟩ := forwardedGrant_spec h
  rw [hu]
  by_cases hw : s.shelf.bus.PartWaits
  · have hlt : s.shelf.bus.bGrants < 4 := (BusInterposer.choice_forwarded_turn ht).resolve_right (not_not_intro hw)
    rw [BusInterposer.countAfterB_of_partWaits hw]
    exact hlt
  · rw [BusInterposer.countAfterB_of_not_partWaits hw]
    exact Nat.zero_le 4

theorem partAccessGrant_count_le {s u : State} (hle : s.shelf.bus.bGrants ≤ 4)
    (h : exec .partAccessGrant s = .next u) : u.shelf.bus.bGrants ≤ 4 := by
  obtain ⟨r, -, -, hu⟩ := partAccessGrant_spec h
  rw [hu, BusInterposer.countAfterPart]
  split
  · exact hle
  · exact Nat.zero_le 4

theorem exec_resetnAsserted_of_not_inReset {s : State} (h : s.mode ≠ .inReset) :
    exec .resetnAsserted s = .next (s.resetBegins .resetn) := if_neg h

/-- Either reset, where it takes place, begins with a count of 0 (R23). -/
theorem reset_bGrants {s u : State}
    (h : exec .powerOnReset s = .next u ∨ (s.mode ≠ .inReset ∧ exec .resetnAsserted s = .next u)) :
    u.shelf.bus.bGrants = 0 := by
  rcases h with h | ⟨hm, h⟩
  · cases h; rfl
  · rw [exec_resetnAsserted_of_not_inReset hm] at h
    cases h; rfl

/-- Settles O22: the effect of each grant on the count is R20's, since the judgement of a burst and the status updates of an
event only produce. -/
theorem arbiterCountsForwardedGrants : Obligations.ArbiterCountsForwardedGrants := by
  refine ⟨fun s u h => ?_, fun s u h => ?_, fun s hp hn hw ha => ?_, fun s u hle h => ?_, fun s u => reset_bGrants⟩
  · obtain ⟨-, hu⟩ := forwardedGrant_spec h
    exact ⟨fun hw => hu.trans (BusInterposer.countAfterB_of_partWaits hw),
      fun hw => hu.trans (BusInterposer.countAfterB_of_not_partWaits hw)⟩
  · obtain ⟨r, hr, hport, hu⟩ := partAccessGrant_spec h
    exact ⟨r, hport, (s.shelf.bus.choice_spec _ hr).2.1 r rfl, fun hc => hu.trans (if_pos hc),
      fun hc => hu.trans (if_neg hc)⟩
  · obtain ⟨r, hr, hhead⟩ := BusInterposer.choice_at_limit hp hn.ge hw ha
    obtain ⟨hread, hwrite⟩ := forwardedGrants_refused_of_part hr
    exact ⟨hread, hwrite, _, r, (exec_partAccessGrant_iff s _).2 ⟨r, hr, rfl⟩, State.finish_port _ _, hhead⟩
  · rcases or_assoc.2 h with h | h
    · exact forwardedGrant_count_le h
    · exact partAccessGrant_count_le hle h

end Sys2Proof.Machine
end

