-- ==== Sys2Proof/Proofs/SnoopedReading.lean ====
section
/-! SUPPORT. A snooped monitor table word (R26): the class and level that the word gives, row by row of the rule's table; the
entry that it rewrites, and what it leaves as it was. -/

namespace Sys2Proof.Machine

/-! ## The table of R26 -/

section
variable {w : Word}

/-- The level field of a monitor table word is signed (section 12.2). -/
theorem signed16_level_field (w : Word) :
    signed16 (bitsOf w 0 16) =
      if w.toNat % 65536 < 32768 then ((w.toNat % 65536 : Nat) : Int) else ((w.toNat % 65536 : Nat) : Int) - 65536 := by
  simp [signed16, bitsOf]

theorem readingClass_dark (h : bitsOf w 16 2 = 0) : readingClass w = (.dark, none) := by
  simp only [readingClass, h]

theorem readingClass_valid (h : bitsOf w 16 2 = 1) :
    readingClass w =
      if signed16 (bitsOf w 0 16) < -6000 then (.dark, none)
      else if signed16 (bitsOf w 0 16) ≤ 2500 then (.finite, some (signed16 (bitsOf w 0 16)))
      else (.over, none) := by
  simp only [readingClass, h]

theorem readingClass_valid_below (h : bitsOf w 16 2 = 1) (hl : signed16 (bitsOf w 0 16) < -6000) :
    readingClass w = (.dark, none) := by
  rw [readingClass_valid h, if_pos hl]

theorem readingClass_valid_within (h : bitsOf w 16 2 = 1) (hl : -6000 ≤ signed16 (bitsOf w 0 16))
    (hu : signed16 (bitsOf w 0 16) ≤ 2500) : readingClass w = (.finite, some (signed16 (bitsOf w 0 16))) := by
  rw [readingClass_valid h, if_neg (Int.not_lt.2 hl), if_pos hu]

theorem readingClass_valid_above (h : bitsOf w 16 2 = 1) (hu : 2500 < signed16 (bitsOf w 0 16)) :
    readingClass w = (.over, none) := by
  have hl : ¬ signed16 (bitsOf w 0 16) < -6000 := by omega
  rw [readingClass_valid h, if_neg hl, if_neg (Int.not_le.2 hu)]

theorem readingClass_over (h : bitsOf w 16 2 = 2) : readingClass w = (.over, none) := by
  simp only [readingClass, h]

theorem readingClass_invalid (h : bitsOf w 16 2 = 3) : readingClass w = (.stale, none) := by
  simp only [readingClass, h]

end

/-! ## The entry that the word's position names -/

theorem State.takeSnoop_reading (s : State) (d : Nat) (dir : Dir) (k : Nat) (w : Word) :
    s.takeSnoop (.reading d dir k w) = s.snoopReading d dir k w := rfl

/-- A monitor table word changes the snapshot's entries alone. -/
theorem State.snoopReading_frame (s : State) (d : Nat) (dir : Dir) (k : Nat) (w : Word) :
    s.snoopReading d dir k w =
      { s with msu := { s.msu with entries := (s.snoopReading d dir k w).msu.entries } } := rfl

theorem State.snap_snoopReading_self (s : State) (d : Nat) (dir : Dir) (k : Nat) (w : Word) (hd : 1 ≤ d) (hd' : d ≤ 4)
    (hk : k < 96) :
    (s.snoopReading d dir k w).snap d dir k =
      ⟨(readingClass w).1, (readingClass w).2, readingPilot w, some s.now, false, .pending⟩ :=
  s.snap_setSnap_self d dir k _ hd hd' hk

theorem State.snap_snoopReading_ne (s : State) (d d' : Nat) (dir dir' : Dir) (k k' : Nat) (w : Word) (hd : 1 ≤ d)
    (hd' : 1 ≤ d') (hk : k < 96) (hk' : k' < 96) (h : (d', dir', k') ≠ (d, dir, k)) :
    (s.snoopReading d dir k w).snap d' dir' k' = s.snap d' dir' k' :=
  s.snap_setSnap_ne d d' dir dir' k k' _ hd hd' hk hk' h

/-- Settles O30: the word's entry is rewritten by the row of R26's table that the word's class and level name, with the
word's pilot, the time base, no expiry and a pending tag. -/
theorem snoopedReadingRewritesItsEntry : Obligations.SnoopedReadingRewritesItsEntry := by
  intro s d dir slot w hd hd' hslot u x level cls
  have hu : u = s.snoopReading d dir slot w := s.takeSnoop_reading d dir slot w
  have hx : x = ⟨(readingClass w).1, (readingClass w).2, readingPilot w, some s.now, false, .pending⟩ :=
    s.snap_snoopReading_self d dir slot w hd hd' hslot
  have hlevel : level = signed16 (bitsOf w 0 16) := (signed16_level_field w).symm
  have hcls : cls = bitsOf w 16 2 := rfl
  rw [hu, hx, hlevel, hcls]
  exact ⟨s.snoopReading_frame d dir slot w,
    fun d' dir' k h1 _ hk hne => s.snap_snoopReading_ne d d' dir dir' slot k w hd h1 hslot hk hne,
    rfl, rfl, rfl, rfl,
    fun hc => Prod.ext_iff.1 (readingClass_dark hc),
    fun hc hlow => Prod.ext_iff.1 (readingClass_valid_below hc hlow),
    fun hc hlow hhigh => Prod.ext_iff.1 (readingClass_valid_within hc hlow hhigh),
    fun hc hhigh => Prod.ext_iff.1 (readingClass_valid_above hc hhigh),
    fun hc => Prod.ext_iff.1 (readingClass_over hc),
    fun hc => Prod.ext_iff.1 (readingClass_invalid hc)⟩

end Sys2Proof.Machine
end

