-- ==== Sys2Proof/Proofs/CorrectionFactors.lean ====
section
/-! SUPPORT. What a cycle teaches (chapter 7.4): the two rows of R134's table on integers, the fields that an element of the
per-hop array takes from its record (R135), and the element of the learned array at an index whose hop one record alone
bears (R133). -/

namespace Sys2Proof.Machine

/-! ## The rows of R134 -/

/-- Rounding up is the floor of the negated quotient, negated. -/
theorem natCast_ceilDiv (a : Nat) {b : Nat} (hb : 0 < b) : ((ceilDiv a b : Nat) : Int) = -(-(a : Int) / b) := by
  have hlow : b * ceilDiv a b ≤ a + b - 1 := Nat.mul_div_le (a + b - 1) b
  have hhigh : a + b - 1 < b * ceilDiv a b + b := Nat.lt_mul_div_succ (a + b - 1) hb
  have hquot : -(a : Int) / b = -(ceilDiv a b : Nat) := by
    rw [Int.ediv_eq_iff_of_pos (by omega), neg_mul, mul_comm]
    norm_cast
    omega
  rw [hquot, neg_neg]

section
variable {k delta used old new : Nat}

/-- R134's first row: the rise passes a prediction above 0, and the factor grows in their proportion, to 4000 at most. -/
theorem learnFactor_of_rise_above (hp : 0 < ceilDiv (delta * used) 1000)
    (hr : (ceilDiv (delta * used) 1000 : Int) < (new : Int) - old) :
    (learnFactor k delta used old new : Int) =
      min 4000 (-(-(k * ((new : Int) - old)) / (ceilDiv (delta * used) 1000 : Nat))) := by
  have hrise : (((new : Int) - old).toNat : Int) = new - old := Int.toNat_of_nonneg (by omega)
  rw [learnFactor, if_pos ⟨hp, hr⟩, Nat.cast_min, natCast_ceilDiv _ hp, Nat.cast_mul, hrise]
  rfl

/-- R134's second row: the factor falls by a quarter of what it has above 1000. -/
theorem learnFactor_of_rise_within (hk : 1000 ≤ k)
    (h : ¬ (0 < ceilDiv (delta * used) 1000 ∧ (ceilDiv (delta * used) 1000 : Int) < (new : Int) - old)) :
    (learnFactor k delta used old new : Int) = max 1000 (k - ((k : Int) - 1000) / 4) := by
  rw [learnFactor, if_neg h]
  omega

end

/-! ## What an element takes from its record -/

section
variable (h : HopElem) (r : HopRecord)

theorem HopElem.learn_factor_none : (h.learn none r).factor = h.factor := rfl

variable {r}

theorem HopElem.learn_factor_of_ok (delta : Nat) (hok : devResultOf r = .ok) :
    (h.learn (some delta) r).factor = learnFactor h.factor delta (h.used.getD 0) h.dev r.dev.toNat := by
  simp only [HopElem.learn, hok]

theorem HopElem.learn_factor_of_not_ok (delta : Option Nat) (hok : devResultOf r ≠ .ok) :
    (h.learn delta r).factor = h.factor := by
  simp only [HopElem.learn]
  split
  · next hr => exact absurd hr hok
  · rfl

theorem HopElem.learn_contResult {c : ContResult} (delta : Option Nat) (hc : contResultOf r = some c) :
    (h.learn delta r).contResult = c := by
  simp only [HopElem.learn, hc, Option.getD_some]

end

/-! ## The array after a cycle -/

theorem learnHops_length (hs : List HopElem) (delta : Option Nat) (rs : List HopRecord) :
    (learnHops hs delta rs).length = hs.length := List.length_map _

/-- The record of a hop is the one that alone bears its index. -/
theorem find?_hop_of_unique {rs : List HopRecord} {r : HopRecord} {n : Nat} (hr : r ∈ rs) (hn : r.hop.toNat = n)
    (huniq : ∀ q ∈ rs, q.hop.toNat = n → q = r) : (rs.find? fun q => q.hop.toNat == n) = some r := by
  obtain ⟨q, hq⟩ : ∃ q, (rs.find? fun q => q.hop.toNat == n) = some q :=
    Option.isSome_iff_exists.1 (List.find?_isSome.2 ⟨r, hr, beq_iff_eq.2 hn⟩)
  have hqn : q.hop.toNat = n := by simpa using List.find?_some hq
  rw [hq, huniq q (List.mem_of_find?_eq_some hq) hqn]

/-- An element learns from the record that alone bears its hop index. -/
theorem learnHops_getElem?_of_unique {hs : List HopElem} {rs : List HopRecord} {i : Nat} {h : HopElem} {r : HopRecord}
    (delta : Option Nat) (hi : hs[i]? = some h) (hr : r ∈ rs) (hn : r.hop.toNat = h.hop)
    (huniq : ∀ q ∈ rs, q.hop.toNat = h.hop → q = r) : (learnHops hs delta rs)[i]? = some (h.learn delta r) := by
  rw [learnHops, List.getElem?_map, hi, Option.map_some, find?_hop_of_unique hr hn huniq]

theorem Job.afterCycle_hops (x : Job) (rs : List HopRecord) :
    (x.afterCycle rs).hops = learnHops x.hops (if x.cycleMeasuresStep then x.lastDelta else none) rs := rfl

/-- Settles O59: an OK result moves the factor by the row of R134's table that its rise and prediction name, any other
result and a cycle that measured no planned step leave it, and the learned array holds each element with what its one
record taught it. -/
theorem correctionFactorsLearn : Obligations.CorrectionFactorsLearn := by
  refine ⟨fun h delta r used hused hk => ?_, fun x rs => ⟨?_, fun i h r hi hr hn huniq => ?_⟩⟩
  · refine ⟨fun hok hp hrise => ?_, fun hok hrise => ?_, fun hok => h.learn_factor_of_not_ok _ hok,
      h.learn_factor_none r⟩
    · rw [h.learn_factor_of_ok delta hok, hused]
      exact learnFactor_of_rise_above hp hrise
    · rw [h.learn_factor_of_ok delta hok, hused]
      exact learnFactor_of_rise_within hk hrise
  · rw [x.afterCycle_hops, learnHops_length]
  · rw [x.afterCycle_hops]
    refine ⟨_, learnHops_getElem?_of_unique _ hi hr hn huniq, rfl, fun c hc => h.learn_contResult _ hc,
      fun hm => ?_, fun hm => ?_⟩
    · rw [if_pos hm]
    · rw [hm, if_neg Bool.false_ne_true, h.learn_factor_none]

end Sys2Proof.Machine
end

