-- ==== Sys2Proof/Proofs/ConsumerAndAttn.lean ====
section
/-! SUPPORT. The consumer copy and ATTN (R176, R177): the circular range of a consumer value, what ATTN follows, which blocks
leave that as it was, and what a consumer value, the last answer of a record, a SET_NODE and a reset make of it. -/

namespace Sys2Proof.Machine

/-! ## The circular range of R176 -/

/-- The model's offsets, taken with 128 added, are those of the rule, whose differences may be negative. -/
theorem ReportWriter.takesConsumer_iff {r : ReportWriter} (hp : r.producer < 128) (hc : r.consumer < 128) (v : Nat) :
    r.takesConsumer v = true ↔
      v ≤ 127 ∧ ((v : Int) - r.consumer) % 128 ≤ ((r.producer : Int) - r.consumer) % 128 := by
  rw [ReportWriter.takesConsumer, Bool.and_eq_true, decide_eq_true_iff, decide_eq_true_iff, ringSlots]
  omega

theorem State.takeSnoop_consumer_of_takes {s : State} {v : Word} (h : s.shelf.rw.takesConsumer v.toNat = true) :
    s.takeSnoop (.consumer v) = { s with shelf := { s.shelf with rw := { s.shelf.rw with consumer := v.toNat } } } :=
  if_pos h

theorem State.takeSnoop_consumer_of_not_takes {s : State} {v : Word} (h : ¬ s.shelf.rw.takesConsumer v.toNat = true) :
    s.takeSnoop (.consumer v) = s := if_neg h

/-! ## What ATTN follows (R177) -/

theorem State.attnLow_iff (s : State) : s.attnLow = true ↔
    s.mode ≠ .inReset ∧ s.cfg.node.attnEnable = true ∧ s.shelf.rw.producer ≠ s.shelf.rw.consumer := by
  simp [State.attnLow, and_assoc]

theorem State.attnLow_of_ne {s : State} (h : s.shelf.rw.producer ≠ s.shelf.rw.consumer) :
    s.attnLow = (s.mode != .inReset && s.cfg.node.attnEnable) := by
  simp [State.attnLow, h]

theorem State.attnLow_of_eq {s : State} (h : s.shelf.rw.producer = s.shelf.rw.consumer) : s.attnLow = false := by
  simp [State.attnLow, h]

theorem State.attnLow_of_inReset {s : State} (h : s.mode = .inReset) : s.attnLow = false := by
  simp [State.attnLow, h]

/-- From one state to another, nothing that ATTN follows changed: the reset, the enable and the ring's two indices (R177). -/
structure State.KeepsAttn (s u : State) : Prop where
  mode : u.mode = s.mode
  enable : u.cfg.node.attnEnable = s.cfg.node.attnEnable
  producer : u.shelf.rw.producer = s.shelf.rw.producer
  consumer : u.shelf.rw.consumer = s.shelf.rw.consumer

theorem State.KeepsAttn.attnLow {s u : State} (h : s.KeepsAttn u) : u.attnLow = s.attnLow := by
  rw [State.attnLow, State.attnLow, h.mode, h.enable, h.producer, h.consumer]

theorem State.KeepsAttn.refl (s : State) : s.KeepsAttn s := ⟨rfl, rfl, rfl, rfl⟩

theorem State.KeepsAttn.trans {s t u : State} (h : s.KeepsAttn t) (k : t.KeepsAttn u) : s.KeepsAttn u :=
  ⟨k.mode.trans h.mode, k.enable.trans h.enable, k.producer.trans h.producer, k.consumer.trans h.consumer⟩

/-- A fold of operations that keep what ATTN follows keeps it. -/
theorem State.KeepsAttn.foldl {α : Type} {f : State → α → State} (hf : ∀ (s : State) a, s.KeepsAttn (f s a)) (l : List α)
    (s : State) : s.KeepsAttn (l.foldl f s) := by
  induction l generalizing s with
  | nil => exact .refl s
  | cons a l ih => exact (hf s a).trans (ih _)

/-- What only produces on the shelf side keeps the ring's indices (R173). -/
theorem State.KeepsAttn.of_onlyProduces {s u : State} (hm : u.mode = s.mode) (hc : u.cfg = s.cfg)
    (h : Shelf.OnlyProduces s.shelf u.shelf) : s.KeepsAttn u :=
  ⟨hm, by rw [hc], h.producer, h.consumer⟩

theorem State.report_keepsAttn (s : State) (e : Event) : s.KeepsAttn (s.report e) :=
  .of_onlyProduces rfl rfl (s.report_spec e).2.1

theorem State.reportAll_keepsAttn (s : State) (es : List Event) : s.KeepsAttn (s.reportAll es) :=
  .of_onlyProduces rfl rfl (s.reportAll_onlyProduces es)

theorem State.updBus_keepsAttn (s : State) (g : BusInterposer → BusInterposer) : s.KeepsAttn (s.updBus g) :=
  ⟨rfl, rfl, rfl, rfl⟩

theorem State.produce_keepsAttn (s : State) (r : PartReq) : s.KeepsAttn (s.produce r) :=
  .of_onlyProduces rfl rfl (s.produce_onlyProduces r)

theorem State.finish_keepsAttn (s before : State) : s.KeepsAttn (s.finish before) :=
  .of_onlyProduces rfl rfl (s.finish_spec before).2.1

/-! ## A consumer value of a forwarded write (R13, R176) -/

theorem State.takeSnoop_consumer_updBus (s : State) (g : BusInterposer → BusInterposer) (v : Word) :
    (s.updBus g).takeSnoop (.consumer v) = (s.takeSnoop (.consumer v)).updBus g := by
  by_cases h : s.shelf.rw.takesConsumer v.toNat = true
  · rw [State.takeSnoop_consumer_of_takes h, State.takeSnoop_consumer_of_takes (s := s.updBus g) h]
    rfl
  · rw [State.takeSnoop_consumer_of_not_takes h, State.takeSnoop_consumer_of_not_takes (s := s.updBus g) h]

/-- Where a consumer value is all that a write earned, its OK does to ATTN what taking the value does. -/
theorem State.writeComplete_consumer_keepsAttn {f : FwdWrite} {v : Word}
    (h : f.beats.filterMap FwdBeat.snoop = [.consumer v]) (s : State) :
    (s.takeSnoop (.consumer v)).KeepsAttn (s.writeComplete f true) := by
  simp only [State.writeComplete, if_true, h, List.foldl_cons, List.foldl_nil, State.takeSnoop_consumer_updBus]
  exact (State.updBus_keepsAttn _ _).trans ((State.reportAll_keepsAttn _ _).trans (State.updBus_keepsAttn _ _))

theorem exec_forwardedTransactionComplete_write {s : State} {f : FwdWrite} (h : s.shelf.bus.port = .write f) :
    exec (.forwardedTransactionComplete true []) s = .next ((s.writeComplete f true).finish s) := by
  change execForwardedTransactionComplete true [] s = _
  simp [execForwardedTransactionComplete, guarded, Instr.wellFormed, h, occur]

/-- A write whose one snoop is a consumer value: the value is taken or ignored, and ATTN follows. -/
theorem consumerWrite_keepsAttn {s : State} {f : FwdWrite} {v : Word} (hp : s.shelf.bus.port = .write f)
    (hs : f.beats.filterMap FwdBeat.snoop = [.consumer v]) :
    ∃ u, exec (.forwardedTransactionComplete true []) s = .next u ∧
      (s.shelf.rw.takesConsumer v.toNat = true →
        State.KeepsAttn { s with shelf := { s.shelf with rw := { s.shelf.rw with consumer := v.toNat } } } u) ∧
      (¬ s.shelf.rw.takesConsumer v.toNat = true → s.KeepsAttn u) := by
  have done := (State.writeComplete_consumer_keepsAttn hs s).trans (State.finish_keepsAttn _ s)
  refine ⟨_, exec_forwardedTransactionComplete_write hp, fun ht => ?_, fun ht => ?_⟩
  · rwa [State.takeSnoop_consumer_of_takes ht] at done
  · rwa [State.takeSnoop_consumer_of_not_takes ht] at done

/-! ## The last answer of a record (R174) -/

/-- A record published: the producer index advances, and the consumer copy is as it was. -/
theorem Shelf.recordAnswer_published {sh : Shelf} {f : Flight} (hf : sh.rw.flight = some f) (hl : f.left ≤ 1)
    (hok : f.failed = false) :
    (sh.recordAnswer true).rw.producer = (sh.rw.producer + 1) % 128 ∧
      (sh.recordAnswer true).rw.consumer = sh.rw.consumer := by
  simp only [Shelf.recordAnswer, hf, Nat.not_lt.2 hl, hok, if_false, Bool.false_or, Bool.not_true, Bool.false_eq_true]
  exact ⟨(Shelf.takeNext_onlyProduces _).producer, (Shelf.takeNext_onlyProduces _).consumer⟩

/-- A record lost at its last answer leaves both indices. -/
theorem Shelf.recordAnswer_lost {sh : Shelf} {f : Flight} (hf : sh.rw.flight = some f) (hl : f.left ≤ 1) :
    (sh.recordAnswer false).rw.producer = sh.rw.producer ∧ (sh.recordAnswer false).rw.consumer = sh.rw.consumer := by
  simp only [Shelf.recordAnswer, hf, Nat.not_lt.2 hl, if_false, Bool.not_false, Bool.or_true, if_true]
  have lost := (Shelf.dropOne_onlyProduces { sh with rw.flight := none }).trans (Shelf.takeNext_onlyProduces _)
  exact ⟨lost.producer, lost.consumer⟩

theorem exec_reportRecordWriteAnswer_record {s : State} {r : PartReq} (hp : s.shelf.bus.port = .part r)
    (hr : r.replaced = []) (hpur : r.purpose = .record) (ok : Bool) :
    exec (.reportRecordWriteAnswer ok) s =
      .next (State.finish { s with shelf := s.freePort.shelf.recordAnswer ok } s) := by
  change execReportRecordWriteAnswer ok s = _
  simp only [execReportRecordWriteAnswer, answerPart, hp, hr, hpur, occur, List.foldl_nil]
  rfl

/-- The answer to a record's write does to ATTN what RW makes of it. -/
theorem recordWriteAnswer_keepsAttn {s : State} {r : PartReq} (hp : s.shelf.bus.port = .part r)
    (hr : r.replaced = []) (hpur : r.purpose = .record) (ok : Bool) :
    ∃ u, exec (.reportRecordWriteAnswer ok) s = .next u ∧
      State.KeepsAttn { s with shelf := s.freePort.shelf.recordAnswer ok } u :=
  ⟨_, exec_reportRecordWriteAnswer_record hp hr hpur ok, State.finish_keepsAttn _ s⟩

/-! ## An accepted SET_NODE (R72) -/

theorem State.removeDegree_keepsAttn (s : State) (d : Nat) : s.KeepsAttn (s.removeDegree d) := by
  unfold State.removeDegree
  dsimp only
  split
  · refine State.KeepsAttn.trans ?_ (State.report_keepsAttn _ _)
    exact ⟨rfl, rfl, rfl, rfl⟩
  · exact ⟨rfl, rfl, rfl, rfl⟩

theorem State.addDegree_keepsAttn (s : State) (d : Nat) : s.KeepsAttn (s.addDegree d) := by
  unfold State.addDegree
  refine State.KeepsAttn.trans ?_ (State.KeepsAttn.foldl (fun t _ => t.produce_keepsAttn _) _ _)
  exact ⟨rfl, rfl, rfl, rfl⟩

theorem State.changeDegree_keepsAttn (s : State) (old : NodeSettings) (d : Nat) : s.KeepsAttn (s.changeDegree old d) := by
  unfold State.changeDegree
  split
  · exact s.removeDegree_keepsAttn d
  · exact s.addDegree_keepsAttn d
  · split
    · exact ⟨rfl, rfl, rfl, rfl⟩
    · exact .refl s
  · exact .refl s

/-- Beside its settings, an accepted SET_NODE changes nothing that ATTN follows. -/
theorem State.judgeSetNode_keepsAttn {s : State} {r : OrderRecord} (h : s.setNodeRefusal (rawSettings r) = none) :
    State.KeepsAttn { s with cfg.node := clampSettings (rawSettings r) } (s.judgeSetNode r) := by
  simp only [State.judgeSetNode, h]
  exact (State.KeepsAttn.foldl (fun t d => t.changeDegree_keepsAttn _ d) _ _).trans (State.report_keepsAttn _ _)

theorem State.orderEnded_keepsAttn (s : State) : s.KeepsAttn s.orderEnded := by
  unfold State.orderEnded State.readOrIdle
  split
  · exact ⟨rfl, rfl, rfl, rfl⟩
  · refine State.KeepsAttn.trans ?_ (State.produce_keepsAttn _ _)
    exact ⟨rfl, rfl, rfl, rfl⟩

theorem State.upperDue_of_awaitsOrder {s : State} (h : s.AwaitsOrder) : s.upperDue = true := by
  obtain ⟨r, hp, hr⟩ := h
  simp [State.upperDue, hp, hr]

theorem exec_setNode_ordered {s : State} {upper : List Word} (ha : s.AwaitsOrder) (hl : upper.length = 16)
    (hk : orderKind (s.orderWith upper) = 9) :
    exec (.setNode upper) s = .next ((s.freePort.judgeSetNode (s.orderWith upper)).orderEnded.finish s) := by
  change execSetNode upper s = _
  have hw : (Instr.setNode upper).wellFormed = true := decide_eq_true hl
  unfold State.orderWith at hk ⊢
  simp only [execSetNode, orderCommand, guarded, hw, s.upperDue_of_awaitsOrder ha, hk, decide_true, occur, if_true,
    Bool.not_true, Bool.false_eq_true, if_false]

/-- The ATTN enable that a SET_NODE sets is bit 8 of its word 12, which no clamp of R72 changes. -/
theorem clampSettings_attnEnable (r : OrderRecord) :
    (clampSettings (rawSettings r)).attnEnable = decide ((orderWord r 12).toNat / 256 % 2 = 1) := rfl

/-- After an accepted SET_NODE, ATTN follows the new enable. -/
theorem setNode_keepsAttn {s : State} {upper : List Word} (ha : s.AwaitsOrder) (hl : upper.length = 16)
    (hk : orderKind (s.orderWith upper) = 9) (hn : s.setNodeRefusal (rawSettings (s.orderWith upper)) = none) :
    ∃ u, exec (.setNode upper) s = .next u ∧
      State.KeepsAttn { s with cfg.node := clampSettings (rawSettings (s.orderWith upper)) } u := by
  have freed : s.freePort.setNodeRefusal (rawSettings (s.orderWith upper)) = none := hn
  refine ⟨_, exec_setNode_ordered ha hl hk, ?_⟩
  have judged := (State.judgeSetNode_keepsAttn freed).trans
    ((State.orderEnded_keepsAttn _).trans (State.finish_keepsAttn _ s))
  exact ⟨judged.mode, judged.enable, judged.producer, judged.consumer⟩

/-! ## The resets, and the statement -/

/-- What either reset, where it takes place, answers (R23). -/
theorem exec_reset_resetBegins {s u : State}
    (h : exec .powerOnReset s = .next u ∨ (s.mode ≠ .inReset ∧ exec .resetnAsserted s = .next u)) :
    ∃ kind, u = s.resetBegins kind := by
  rcases h with h | ⟨hm, h⟩
  · cases h
    exact ⟨.powerOn, rfl⟩
  · rw [exec_resetnAsserted_of_not_inReset hm] at h
    cases h
    exact ⟨.resetn, rfl⟩

/-- A reset leaves the device in reset, where ATTN is released (R177). -/
theorem reset_attnLow {s u : State}
    (h : exec .powerOnReset s = .next u ∨ (s.mode ≠ .inReset ∧ exec .resetnAsserted s = .next u)) :
    u.attnLow = false := by
  obtain ⟨kind, rfl⟩ := exec_reset_resetBegins h
  exact State.attnLow_of_inReset rfl

/-- Settles O34: each event that changes an index or the enable is, for all that ATTN follows, that one change. -/
theorem consumerValueAndAttn : Obligations.ConsumerValueAndAttn := by
  have takes_iff {s : State} (hb : s.shelf.Bounded) (v : Word) :=
    ReportWriter.takesConsumer_iff hb.producer hb.consumer v.toNat
  refine ⟨fun s v hb => ⟨fun h => ?_, fun h => ?_⟩, State.attnLow_iff, fun s f v hb hp hs => ?_,
    fun s r f hp hr hpur hf hl => ⟨fun hok hne => ?_, ?_⟩, fun s upper ha hlen hk hn => ?_, fun s u => reset_attnLow⟩
  · exact State.takeSnoop_consumer_of_takes ((takes_iff hb v).2 h)
  · exact State.takeSnoop_consumer_of_not_takes (mt (takes_iff hb v).1 h)
  · obtain ⟨u, hu, taken, ignored⟩ := consumerWrite_keepsAttn hp hs
    by_cases ht : s.shelf.rw.takesConsumer v.toNat = true
    · have keeps := taken ht
      refine ⟨u, hu, keeps.producer, fun _ => ⟨keeps.consumer, fun hv => ?_, fun hv => ?_⟩,
        fun hn => absurd ((takes_iff hb v).1 ht) hn⟩
      · exact keeps.attnLow.trans (State.attnLow_of_eq hv.symm)
      · exact keeps.attnLow.trans (State.attnLow_of_ne (Ne.symm hv))
    · have keeps := ignored ht
      exact ⟨u, hu, keeps.producer, fun h => absurd ((takes_iff hb v).2 h) ht, fun _ => ⟨keeps.consumer, keeps.attnLow⟩⟩
  · obtain ⟨u, hu, answered⟩ := recordWriteAnswer_keepsAttn hp hr hpur true
    obtain ⟨hprod, hcons⟩ := Shelf.recordAnswer_published (sh := s.freePort.shelf) hf hl hok
    refine ⟨u, hu, answered.producer.trans hprod, answered.consumer.trans hcons, answered.attnLow.trans ?_⟩
    exact State.attnLow_of_ne (by rw [hprod, hcons]; exact hne)
  · obtain ⟨u, hu, answered⟩ := recordWriteAnswer_keepsAttn hp hr hpur false
    obtain ⟨hprod, hcons⟩ := Shelf.recordAnswer_lost (sh := s.freePort.shelf) hf hl
    have keeps : s.KeepsAttn u :=
      ⟨answered.mode, answered.enable, answered.producer.trans hprod, answered.consumer.trans hcons⟩
    exact ⟨u, hu, keeps.producer, keeps.consumer, keeps.attnLow⟩
  · obtain ⟨u, hu, keeps⟩ := setNode_keepsAttn ha hlen hk hn
    refine ⟨u, hu, keeps.attnLow.trans ?_⟩
    rw [State.attnLow, clampSettings_attnEnable]

end Sys2Proof.Machine
end
